-- ==== Sys2Proof/Word.lean ====
section
/-! DEFINITION. The word types of the codec (00_scope.md R9, R13): bits of the wire. -/

namespace Sys2Proof

/-- A wire byte, 8 bits, bit 7 the most significant (R11, R13). -/
abbrev Byte := BitVec 8

/-- `Data7`: the value of a data byte, 7 bits (R13, R62). -/
abbrev Data7 := BitVec 7

/-- `Chan`: the channel field of a status byte, 4 bits (R13, R61). -/
abbrev Chan := BitVec 4

/-- An opcode nibble, or the `kind` of an event on a port, 4 bits (R61, R72). -/
abbrev Nibble := BitVec 4

end Sys2Proof
end

