-- ==== Sys2Proof/Config.lean ====
section
/-! DEFINITION. What an implementation fixes: the three parameters of 00_scope.md R8 and which values of
them are legal (R8, 30_encoding.md R66). They are plain data, fixed before reset (R31); log 1, 2, 3. -/

namespace Sys2Proof

/-- The kinds of a single-byte system message (R13). -/
inductive RtKind where
  | clock | start | continue_ | stop | activeSense | reset | tuneRequest
  deriving DecidableEq, Repr

/-- The seven kinds, for the condition that `RT_TABLE` maps onto all of them (R66). -/
def RtKind.all : List RtKind :=
  [.clock, .start, .continue_, .stop, .activeSense, .reset, .tuneRequest]

/-- `RT_TABLE`: entry `i` is the kind of the system status byte 0xF0 + i, or none where that byte is
unsupported (R8, R66). A domain outside 0xF0..0xFF cannot be written down. -/
abbrev RtTable := Vector (Option RtKind) 16

/-- The default `RT_TABLE`, the MIDI 1.0 assignment (R66). PRESUMED by the spec itself (K1, D16); log 2. -/
def RtTable.default : RtTable :=
  #v[none, none, none, none, none, none, some .tuneRequest, none,
     some .clock, none, some .start, some .continue_, some .stop, none, some .activeSense, some .reset]

/-- The tables that R8 and R66 allow: 0xF0, 0xF4 and 0xF7 unsupported, exactly one byte of 0xF1..0xF6
supported and it is tune-request, no kind at two bytes, every kind at some byte. DEDUCED for 0xF4 and
0xF7, which R66 says the source fixes and R8 does not repeat; log 3. -/
abbrev RtTable.Legal (t : RtTable) : Prop :=
  (t[0] = none ∧ t[4] = none ∧ t[7] = none) ∧
  (∃ i : Fin 16, (1 ≤ i.val ∧ i.val ≤ 6) ∧ t[i] = some .tuneRequest ∧
    ∀ j : Fin 16, 1 ≤ j.val ∧ j.val ≤ 6 → j ≠ i → t[j] = none) ∧
  (∀ i j : Fin 16, t[i] = t[j] → t[i] ≠ none → i = j) ∧
  (∀ k ∈ RtKind.all, ∃ i : Fin 16, t[i] = some k)

/-- The parameters of a build of the codec (R8). -/
structure Params where
  /-- `DATA_W`: width of the event fields `a` and `b`. -/
  dataW : Nat
  /-- `BEND_W`: width of the signed event field `bend`. -/
  bendW : Nat
  /-- `RT_TABLE`. -/
  rtTable : RtTable
  deriving DecidableEq, Repr

/-- The default of each parameter (R8). -/
def Params.default : Params := ⟨8, 16, RtTable.default⟩

/-- The legal values of the parameters (R8). -/
abbrev Params.Legal (p : Params) : Prop :=
  7 ≤ p.dataW ∧ 14 ≤ p.bendW ∧ p.rtTable.Legal

end Sys2Proof
end

