-- ==== Sys2Proof/Syntax.lean ====
section
/-! DEFINITION. Syntax: the instructions (one constructor per row of spec/opcode_table.json), the events of
00_scope.md R13, the event port's five fields (30_encoding.md R72), and what can arrive at the codec. -/

namespace Sys2Proof

/-- An instruction: a class of wire byte (decoder) or an event kind (encoder), as 30_encoding.md and
opcode_table.json list them (R79). -/
inductive Instr where
  /-- NOTE_OFF: status byte 0x80 + channel (R96). -/
  | noteOff (ch : Chan)
  /-- NOTE_ON: status byte 0x90 + channel (R97). -/
  | noteOn (ch : Chan)
  /-- POLY_PRESSURE: status byte 0xA0 + channel (R98). -/
  | polyPressure (ch : Chan)
  /-- CONTROL_CHANGE: status byte 0xB0 + channel (R99). -/
  | controlChange (ch : Chan)
  /-- PROGRAM_CHANGE: status byte 0xC0 + channel (R100). -/
  | programChange (ch : Chan)
  /-- CHANNEL_PRESSURE: status byte 0xD0 + channel (R101). -/
  | channelPressure (ch : Chan)
  /-- PITCH_BEND: status byte 0xE0 + channel (R102). -/
  | pitchBend (ch : Chan)
  /-- SYS_F0: byte 0xF0 (R121). -/
  | sysF0
  /-- SYS_F1: byte 0xF1 (R122). -/
  | sysF1
  /-- SYS_F2: byte 0xF2 (R123). -/
  | sysF2
  /-- SYS_F3: byte 0xF3 (R124). -/
  | sysF3
  /-- SYS_F4: byte 0xF4 (R125). -/
  | sysF4
  /-- SYS_F5: byte 0xF5 (R126). -/
  | sysF5
  /-- TUNE_REQUEST: byte 0xF6 (R127). -/
  | tuneRequest
  /-- SYS_F7: byte 0xF7 (R128). -/
  | sysF7
  /-- CLOCK: byte 0xF8 (R129). -/
  | clock
  /-- SYS_F9: byte 0xF9 (R130). -/
  | sysF9
  /-- START: byte 0xFA (R131). -/
  | start
  /-- CONTINUE: byte 0xFB (R132). -/
  | continue_
  /-- STOP: byte 0xFC (R133). -/
  | stop
  /-- SYS_FD: byte 0xFD (R134). -/
  | sysFD
  /-- ACTIVE_SENSE: byte 0xFE (R135). -/
  | activeSense
  /-- RESET: byte 0xFF (R136). -/
  | reset
  /-- DATA: a data byte and its 7-bit value (R62, R67, R93). -/
  | data (d : Data7)
  /-- ENC_NOTE_OFF: event kind 0x8 (R153). -/
  | encNoteOff (ch : Chan) (note velocity : Nat)
  /-- ENC_NOTE_ON: event kind 0x9 (R154). -/
  | encNoteOn (ch : Chan) (note velocity : Nat)
  /-- ENC_POLY_PRESSURE: event kind 0xA (R155). -/
  | encPolyPressure (ch : Chan) (note pressure : Nat)
  /-- ENC_CONTROL_CHANGE: event kind 0xB (R156). -/
  | encControlChange (ch : Chan) (controller value : Nat)
  /-- ENC_PROGRAM_CHANGE: event kind 0xC (R157). -/
  | encProgramChange (ch : Chan) (program : Nat)
  /-- ENC_CHANNEL_PRESSURE: event kind 0xD (R158). -/
  | encChannelPressure (ch : Chan) (pressure : Nat)
  /-- ENC_PITCH_BEND: event kind 0xE (R159). -/
  | encPitchBend (ch : Chan) (value : Int)
  /-- ENC_SYSTEM_REALTIME: event kind 0xF with its sub-code, which the encoder ignores (R160). -/
  | encSystemRealtime (sub : BitVec 4)
  /-- ENC_OTHER: event kinds 0x0..0x7 (R161). -/
  | encOther (kindLow : BitVec 3)
  deriving DecidableEq, Repr

/-- `MidiEvent` (R13): the source's eight cases and the spec's ninth, `Other`. The decoder's parameters
lie in 0..127 and -8192..8191; an event at the encoder may carry more. -/
inductive MidiEvent where
  | noteOff (channel : Chan) (note velocity : Nat)
  | noteOn (channel : Chan) (note velocity : Nat)
  | polyPressure (channel : Chan) (note pressure : Nat)
  | controlChange (channel : Chan) (controller value : Nat)
  | programChange (channel : Chan) (program : Nat)
  | channelPressure (channel : Chan) (pressure : Nat)
  | pitchBend (channel : Chan) (value : Int)
  | systemRealtime (kind : RtKind)
  | other
  deriving DecidableEq, Repr

/-- An event as the five fields of a port (R72). `a` and `b` are unsigned and `bend` is signed; that they
fit `DATA_W` and `BEND_W` bits is checked (`PortEvent.misfit`); log 12. -/
structure PortEvent where
  kind : Nibble
  chan : Chan
  a : Nat
  b : Nat
  bend : Int
  deriving DecidableEq, Repr

/-- The word of one instruction: a byte of stream S1 or an event of stream S3 (R40). -/
inductive InWord where
  | wire (b : Byte)
  | event (e : PortEvent)
  deriving DecidableEq, Repr

/-- What the environment can give the codec next: its reset line (R201) or a word; log 4, 13. -/
inductive InItem where
  | rst
  | word (w : InWord)
  deriving DecidableEq, Repr

/-- Why an event cannot be presented on the port (R8, 93_implementation_defined.md U10). -/
inductive Misfit where
  /-- `a` does not fit `DATA_W` bits. -/
  | aTooWide
  /-- `b` does not fit `DATA_W` bits. -/
  | bTooWide
  /-- `bend` does not fit `BEND_W` bits, two's complement. -/
  | bendTooWide
  deriving DecidableEq, Repr

end Sys2Proof
end

