-- ==== Sys2Proof/WellFormed.lean ====
section
/-! DEFINITION. Which instructions and port events can be presented: a parameter fits `DATA_W` bits and a
pitch-bend value fits `BEND_W` bits (00_scope.md R8, R13; 93_implementation_defined.md U10). -/

namespace Sys2Proof

/-- An unsigned parameter fits the port fields `a` and `b` (R8, R72). -/
def Params.fitsData (p : Params) (n : Nat) : Bool := decide (n < 2 ^ p.dataW)

/-- A signed value fits the port field `bend` (R8, R72). -/
def Params.fitsBend (p : Params) (v : Int) : Bool :=
  decide (-2 ^ (p.bendW - 1) ≤ v) && decide (v < 2 ^ (p.bendW - 1))

/-- Every field of the event that its kind uses can be presented (R208, U10). A decoder instruction has
only fields whose every value is legal (R65, R71). -/
def Instr.wf (p : Params) : Instr → Bool
  | .noteOff _ | .noteOn _ | .polyPressure _ | .controlChange _ | .programChange _
  | .channelPressure _ | .pitchBend _ | .sysF0 | .sysF1 | .sysF2 | .sysF3 | .sysF4 | .sysF5
  | .tuneRequest | .sysF7 | .clock | .sysF9 | .start | .continue_ | .stop | .sysFD | .activeSense
  | .reset | .data _ => true
  | .encNoteOff _ a b | .encNoteOn _ a b | .encPolyPressure _ a b | .encControlChange _ a b =>
    p.fitsData a && p.fitsData b
  | .encProgramChange _ a | .encChannelPressure _ a => p.fitsData a
  | .encPitchBend _ v => p.fitsBend v
  | .encSystemRealtime _ | .encOther _ => true

/-- The first field of a port event that does not fit, if any (U10). -/
def PortEvent.misfit (p : Params) (e : PortEvent) : Option Misfit :=
  if !p.fitsData e.a then some .aTooWide
  else if !p.fitsData e.b then some .bTooWide
  else if !p.fitsBend e.bend then some .bendTooWide
  else none

end Sys2Proof
end

