-- ==== Sys2Proof/Decode.lean ====
section
/-! DEFINITION. The bit fields of a byte (30_encoding.md R61, R62), the decoder of instruction words, total
on every word and rejecting by name, the encoder of instruction words, and the opcode table (R79). -/

namespace Sys2Proof

/-- `isStatus(b) = (b[7] = 1)` (R14, R60). -/
def isStatus (b : Byte) : Bool := b.getLsbD 7

/-- `opc(b) = b[7:4]` (R14, R61). -/
def opc (b : Byte) : Nibble := b.extractLsb' 4 4

/-- `chan(b) = b[3:0]` (R14, R61). -/
def chan (b : Byte) : Chan := b.extractLsb' 0 4

/-- `d[6:0]`, the value of a data byte (R62). -/
def dataValue (b : Byte) : Data7 := b.extractLsb' 0 7

/-- The status byte with this opcode nibble and channel field: `{opcode nibble, ch[3:0]}` (R61, R151). -/
def statusByte (nib : Nibble) (ch : Chan) : Byte := nib ++ ch

/-- The data byte with this value: bit 7 clear (R62, R68). -/
def dataByte (d : Data7) : Byte := 0#1 ++ d

/-! ### Decoding -/

/-- The system status bytes 0xF0..0xFF by their sub-code (R66, opcode_table.json). The last arm is 0xF. -/
def decodeSystem (sub : BitVec 4) : Instr :=
  match sub with
  | 0x0#4 => .sysF0
  | 0x1#4 => .sysF1
  | 0x2#4 => .sysF2
  | 0x3#4 => .sysF3
  | 0x4#4 => .sysF4
  | 0x5#4 => .sysF5
  | 0x6#4 => .tuneRequest
  | 0x7#4 => .sysF7
  | 0x8#4 => .clock
  | 0x9#4 => .sysF9
  | 0xA#4 => .start
  | 0xB#4 => .continue_
  | 0xC#4 => .stop
  | 0xD#4 => .sysFD
  | 0xE#4 => .activeSense
  | _ => .reset

/-- Every status byte by its opcode nibble (R65, R66). The last arm is the nibble 0xF. -/
def decodeStatus (nib : Nibble) (ch : Chan) : Instr :=
  match nib with
  | 0x8#4 => .noteOff ch
  | 0x9#4 => .noteOn ch
  | 0xA#4 => .polyPressure ch
  | 0xB#4 => .controlChange ch
  | 0xC#4 => .programChange ch
  | 0xD#4 => .channelPressure ch
  | 0xE#4 => .pitchBend ch
  | _ => decodeSystem ch

/-- A wire byte: bit 7 first and alone tells the class (R60, R91); all 256 bytes decode (R71). -/
def decodeByte (b : Byte) : Instr :=
  if isStatus b then decodeStatus (opc b) (chan b) else .data (dataValue b)

/-- A port event by its `kind` alone (R73, R77); fields its kind does not use are dropped (R74). -/
def decodeEvent (e : PortEvent) : Instr :=
  match e.kind with
  | 0x8#4 => .encNoteOff e.chan e.a e.b
  | 0x9#4 => .encNoteOn e.chan e.a e.b
  | 0xA#4 => .encPolyPressure e.chan e.a e.b
  | 0xB#4 => .encControlChange e.chan e.a e.b
  | 0xC#4 => .encProgramChange e.chan e.a
  | 0xD#4 => .encChannelPressure e.chan e.a
  | 0xE#4 => .encPitchBend e.chan e.bend
  | 0xF#4 => .encSystemRealtime e.chan
  | k => .encOther (k.extractLsb' 0 3)

/-- The decoder: every wire byte is an instruction; an event is one unless a field of it cannot be
presented on the port, and is then rejected by that field's name (R71, U10; log 10). -/
def decode (p : Params) : InWord → Except Misfit Instr
  | .wire b => .ok (decodeByte b)
  | .event e =>
    match e.misfit p with
    | some m => .error m
    | none => .ok (decodeEvent e)

/-! ### Encoding -/

/-- The word of an instruction, from the tables of R65, R66 and R73; port fields its kind does not use
are 0. -/
def encode : Instr → InWord
  | .noteOff ch => .wire (statusByte 0x8#4 ch)
  | .noteOn ch => .wire (statusByte 0x9#4 ch)
  | .polyPressure ch => .wire (statusByte 0xA#4 ch)
  | .controlChange ch => .wire (statusByte 0xB#4 ch)
  | .programChange ch => .wire (statusByte 0xC#4 ch)
  | .channelPressure ch => .wire (statusByte 0xD#4 ch)
  | .pitchBend ch => .wire (statusByte 0xE#4 ch)
  | .sysF0 => .wire 0xF0#8
  | .sysF1 => .wire 0xF1#8
  | .sysF2 => .wire 0xF2#8
  | .sysF3 => .wire 0xF3#8
  | .sysF4 => .wire 0xF4#8
  | .sysF5 => .wire 0xF5#8
  | .tuneRequest => .wire 0xF6#8
  | .sysF7 => .wire 0xF7#8
  | .clock => .wire 0xF8#8
  | .sysF9 => .wire 0xF9#8
  | .start => .wire 0xFA#8
  | .continue_ => .wire 0xFB#8
  | .stop => .wire 0xFC#8
  | .sysFD => .wire 0xFD#8
  | .activeSense => .wire 0xFE#8
  | .reset => .wire 0xFF#8
  | .data d => .wire (dataByte d)
  | .encNoteOff ch a b => .event ⟨0x8#4, ch, a, b, 0⟩
  | .encNoteOn ch a b => .event ⟨0x9#4, ch, a, b, 0⟩
  | .encPolyPressure ch a b => .event ⟨0xA#4, ch, a, b, 0⟩
  | .encControlChange ch a b => .event ⟨0xB#4, ch, a, b, 0⟩
  | .encProgramChange ch a => .event ⟨0xC#4, ch, a, 0, 0⟩
  | .encChannelPressure ch a => .event ⟨0xD#4, ch, a, 0, 0⟩
  | .encPitchBend ch v => .event ⟨0xE#4, ch, 0, 0, v⟩
  | .encSystemRealtime sub => .event ⟨0xF#4, sub, 0, 0, 0⟩
  | .encOther k => .event ⟨0#1 ++ k, 0, 0, 0, 0⟩

/-! ### The opcode table -/

/-- The two agents (R3). -/
inductive Agent where
  | decoder | encoder
  deriving DecidableEq, Repr

/-- A row of opcode_table.json: `mask` and `pattern` apply to the status byte (decoder) or to `kind`
(encoder) (R79). -/
structure Row where
  mnemonic : String
  agent : Agent
  pattern : Nat
  mask : Nat
  deriving DecidableEq, Repr

/-- The seven channel-voice rows and the data row. -/
def channelVoiceRows : List Row :=
  [⟨"NOTE_OFF", .decoder, 0x80, 0xF0⟩, ⟨"NOTE_ON", .decoder, 0x90, 0xF0⟩,
   ⟨"POLY_PRESSURE", .decoder, 0xA0, 0xF0⟩, ⟨"CONTROL_CHANGE", .decoder, 0xB0, 0xF0⟩,
   ⟨"PROGRAM_CHANGE", .decoder, 0xC0, 0xF0⟩, ⟨"CHANNEL_PRESSURE", .decoder, 0xD0, 0xF0⟩,
   ⟨"PITCH_BEND", .decoder, 0xE0, 0xF0⟩, ⟨"DATA", .decoder, 0x00, 0x80⟩]

/-- The sixteen system rows. -/
def systemRows : List Row :=
  [⟨"SYS_F0", .decoder, 0xF0, 0xFF⟩, ⟨"SYS_F1", .decoder, 0xF1, 0xFF⟩,
   ⟨"SYS_F2", .decoder, 0xF2, 0xFF⟩, ⟨"SYS_F3", .decoder, 0xF3, 0xFF⟩,
   ⟨"SYS_F4", .decoder, 0xF4, 0xFF⟩, ⟨"SYS_F5", .decoder, 0xF5, 0xFF⟩,
   ⟨"TUNE_REQUEST", .decoder, 0xF6, 0xFF⟩, ⟨"SYS_F7", .decoder, 0xF7, 0xFF⟩,
   ⟨"CLOCK", .decoder, 0xF8, 0xFF⟩, ⟨"SYS_F9", .decoder, 0xF9, 0xFF⟩,
   ⟨"START", .decoder, 0xFA, 0xFF⟩, ⟨"CONTINUE", .decoder, 0xFB, 0xFF⟩,
   ⟨"STOP", .decoder, 0xFC, 0xFF⟩, ⟨"SYS_FD", .decoder, 0xFD, 0xFF⟩,
   ⟨"ACTIVE_SENSE", .decoder, 0xFE, 0xFF⟩, ⟨"RESET", .decoder, 0xFF, 0xFF⟩]

/-- The nine encoder rows. -/
def encoderRows : List Row :=
  [⟨"ENC_NOTE_OFF", .encoder, 0x8, 0xF⟩, ⟨"ENC_NOTE_ON", .encoder, 0x9, 0xF⟩,
   ⟨"ENC_POLY_PRESSURE", .encoder, 0xA, 0xF⟩, ⟨"ENC_CONTROL_CHANGE", .encoder, 0xB, 0xF⟩,
   ⟨"ENC_PROGRAM_CHANGE", .encoder, 0xC, 0xF⟩, ⟨"ENC_CHANNEL_PRESSURE", .encoder, 0xD, 0xF⟩,
   ⟨"ENC_PITCH_BEND", .encoder, 0xE, 0xF⟩, ⟨"ENC_SYSTEM_REALTIME", .encoder, 0xF, 0xF⟩,
   ⟨"ENC_OTHER", .encoder, 0x0, 0x8⟩]

/-- opcode_table.json (R79). -/
def opcodeTable : List Row := channelVoiceRows ++ systemRows ++ encoderRows

/-- A row matches a word of its own agent whose status byte, data byte or `kind` it fits (R79). -/
def Row.fits (r : Row) : InWord → Bool
  | .wire b => r.agent == .decoder && (b.toNat &&& r.mask == r.pattern)
  | .event e => r.agent == .encoder && (e.kind.toNat &&& r.mask == r.pattern)

/-- The mnemonic of an instruction's row in opcode_table.json. -/
def Instr.mnemonic : Instr → String
  | .noteOff _ => "NOTE_OFF"
  | .noteOn _ => "NOTE_ON"
  | .polyPressure _ => "POLY_PRESSURE"
  | .controlChange _ => "CONTROL_CHANGE"
  | .programChange _ => "PROGRAM_CHANGE"
  | .channelPressure _ => "CHANNEL_PRESSURE"
  | .pitchBend _ => "PITCH_BEND"
  | .sysF0 => "SYS_F0"
  | .sysF1 => "SYS_F1"
  | .sysF2 => "SYS_F2"
  | .sysF3 => "SYS_F3"
  | .sysF4 => "SYS_F4"
  | .sysF5 => "SYS_F5"
  | .tuneRequest => "TUNE_REQUEST"
  | .sysF7 => "SYS_F7"
  | .clock => "CLOCK"
  | .sysF9 => "SYS_F9"
  | .start => "START"
  | .continue_ => "CONTINUE"
  | .stop => "STOP"
  | .sysFD => "SYS_FD"
  | .activeSense => "ACTIVE_SENSE"
  | .reset => "RESET"
  | .data _ => "DATA"
  | .encNoteOff _ _ _ => "ENC_NOTE_OFF"
  | .encNoteOn _ _ _ => "ENC_NOTE_ON"
  | .encPolyPressure _ _ _ => "ENC_POLY_PRESSURE"
  | .encControlChange _ _ _ => "ENC_CONTROL_CHANGE"
  | .encProgramChange _ _ => "ENC_PROGRAM_CHANGE"
  | .encChannelPressure _ _ => "ENC_CHANNEL_PRESSURE"
  | .encPitchBend _ _ => "ENC_PITCH_BEND"
  | .encSystemRealtime _ => "ENC_SYSTEM_REALTIME"
  | .encOther _ => "ENC_OTHER"

/-! ### Words numbered as opcode_table.json numbers them -/

/-- The word whose bits, numbered as opcode_table.json numbers them, are `w`. The table gives the wire
rows 8 bits and the encoder rows the 4 bits of `kind`, so in whole bytes the row DATA and the encoder rows
claim the same numbers 0..15. DESIGN CHOICE (log 6): of these, 0 is the data byte and 1..15 are an event
kind, so that every constructor has a word; the other port fields of such an event are 0. A width below
8 bits always means an event kind. Only `decodeTableWord` and `withFetchWord` use this numbering: what
the machine decodes is the tagged word itself. -/
def tableWord (nbits w : Nat) : InWord :=
  if nbits < 8 || (0 < w && w < 16) then .event ⟨BitVec.ofNat 4 w, 0, 0, 0, 0⟩
  else .wire (BitVec.ofNat 8 w)

/-- The instruction of a numbered table word, under the default parameters (no event word of
`tableWord` depends on them). -/
def decodeTableWord (nbits w : Nat) : Option Instr :=
  match decode Params.default (tableWord nbits w) with
  | .ok i => some i
  | .error _ => none

end Sys2Proof
end

