-- ==== Sys2Proof/Machine/State.lean ====
section
/-! DEFINITION. The state of the machine: the decoder's four registers (10_state.md R20), the parameters
(00_scope.md R8), and the model's own streams and ghost outputs (20_memory.md R40; log 1, 4, 7, 8). -/

namespace Sys2Proof.Machine

/-- Why the machine stops with a fault. NO constructor: "The hardware has no exception, no trap and no
fault" (60_exceptions.md R180), so no step can answer `fault`. -/
inductive Fault where
  deriving DecidableEq, Repr

/-- Why a step gives no meaning to its input. -/
inductive Refusal where
  /-- An instruction whose meaning is not written yet, by its mnemonic. Raised by no arm of `exec`. Safe. -/
  | notModelled (mnemonic : String)
  /-- An event a field of which does not fit its port (R208; 93_implementation_defined.md U10 treats it as
  `refuse`). Raised by `step` when it takes such an event, never by a meaning. Safe; log 10. -/
  | notPresentable (why : Misfit)
  deriving DecidableEq, Repr

/-- The anomalies of 60_exceptions.md R181 to R185: ghost outputs that change nothing (R188). -/
inductive Anomaly where
  /-- A system status byte outside `RT_TABLE` (R181). -/
  | unsupportedStatus
  /-- A data byte before any status byte (R182). -/
  | orphanData
  /-- A data byte while a system status is cached (R183). -/
  | systemData
  /-- A status byte while a data byte is collected (R184). -/
  | abandonedMessage
  /-- An event the encoder gives no bytes for (R185). -/
  | unsupportedEvent
  deriving DecidableEq, Repr

/-- DecoderState (R20). -/
structure DecoderState where
  /-- `running_status`: the most recent status byte, none before the first (R21). -/
  runningStatus : Option Byte
  /-- `pending_status`: declared by the source, written and read by no rule (R22). -/
  pendingStatus : Option Byte
  /-- `collected`: the data bytes of the message in progress, oldest first (R23). -/
  collected : List Data7
  /-- `expected_count`: 0, 1 or 2 (R24). -/
  expectedCount : Fin 3
  deriving DecidableEq, Repr

/-- `reset_state` (R33). -/
def DecoderState.reset : DecoderState := ⟨none, none, [], 0⟩

/-- The machine: plain data. -/
structure State where
  /-- The parameters, written by no step (R8, R31; log 1). -/
  params : Params
  /-- The decoder's registers (R20). The encoder has no state (R27). -/
  dec : DecoderState
  /-- What the environment will give next, oldest first: S1, S3 and the reset line (R40; log 4). -/
  input : List InItem
  /-- The events put on S2 so far, oldest first (R40, R50; log 7). -/
  evOut : List MidiEvent
  /-- The byte groups put on S4 so far, oldest first (R40, R50; log 7). -/
  wireOut : List (List Byte)
  /-- Ghost: the decoder's anomalies so far, oldest first (R188; log 8). -/
  decAnomalies : List Anomaly
  /-- Ghost: the encoder's anomalies so far, oldest first (R188; log 8). -/
  encAnomalies : List Anomaly
  deriving DecidableEq, Repr

/-- The machine right after reset of a codec built with these parameters: the decoder at `reset_state`
(R33, R200), every stream at its beginning (log 4, 7, 8). -/
def State.resetWith (p : Params) : State := ⟨p, DecoderState.reset, [], [], [], [], []⟩

/-- The machine right after reset, with the default parameters (R8, R33). -/
def State.reset : State := State.resetWith Params.default

/-- What one decoder step gives (R90): the new state, the event output, and the ghost names (R188). -/
structure FeedOut where
  state : DecoderState
  out : Option MidiEvent
  anomalies : List Anomaly
  deriving DecidableEq, Repr

/-- What one encoder call gives (R150): the bytes or nothing, and the ghost names (R188). -/
structure EncodeOut where
  bytes : Option (List Byte)
  anomalies : List Anomaly
  deriving DecidableEq, Repr

/-- What `step` finds at the head of the input. -/
inductive Fetched where
  /-- Nothing has arrived: the codec keeps its state (R55, R198, R203). -/
  | idle
  /-- The reset line (R201), and the state with it taken from the input. -/
  | rst (s : State)
  /-- An instruction, and the state with its word taken from the input (R41, R48). -/
  | run (i : Instr) (s : State)
  /-- An event that cannot be presented (U10). -/
  | refused (r : Refusal)
  deriving DecidableEq, Repr

end Sys2Proof.Machine
end

