-- ==== Sys2Proof/Machine/Flags.lean ====
section
/-! DEFINITION. Flags: there are no arithmetic flags and no condition codes (10_state.md R30). The only
one-bit status values are the presence bits of the two optional registers. -/

namespace Sys2Proof.Machine

/-- `running_status` present: set by the first status byte, cleared only by reset (R30). -/
def DecoderState.runningPresent (S : DecoderState) : Bool := S.runningStatus.isSome

/-- `pending_status` present: never set (R22, R30). -/
def DecoderState.pendingPresent (S : DecoderState) : Bool := S.pendingStatus.isSome

end Sys2Proof.Machine
end

