-- ==== Sys2Proof/Machine/Operands.lean ====
section
/-! DEFINITION. Operands: classes and lengths of status bytes (00_scope.md R14), `RT_TABLE` (30_encoding.md
R66), seven-bit operands (R68), the pitch-bend operand (R69), and the assembly of an event (R94, R96 to R102). -/

namespace Sys2Proof.Machine

/-- `isSystem(b)` (R14). -/
def isSystem (b : Byte) : Bool := isStatus b && opc b == 0xF#4

/-- `isChannelVoice(b)`: a status byte whose opcode nibble is 0x8..0xE (R14, R65). -/
def isChannelVoice (b : Byte) : Bool := isStatus b && opc b != 0xF#4

/-- `dlen(b)`, the count of data bytes a status byte's message carries (R14, R64). -/
def dlen (b : Byte) : Fin 3 :=
  match opc b with
  | 0x8#4 | 0x9#4 | 0xA#4 | 0xB#4 | 0xE#4 => 2
  | 0xC#4 | 0xD#4 => 1
  | _ => 0

/-- `rt(b) = RT_TABLE(b)` for a system status byte (R14, R66); none for any other byte. -/
def rt (p : Params) (b : Byte) : Option RtKind :=
  if isSystem b then p.rtTable[(chan b).toNat]'(chan b).isLt else none

/-- The sub-code of the byte `RT_TABLE` assigns to a kind: the table read backwards, for the port field
`chan` (R73). A table that has the kind nowhere is not legal; 0 then (log 14). -/
def rtCode (p : Params) (k : RtKind) : BitVec 4 :=
  match (List.finRange 16).find? (fun i => p.rtTable[i] == some k) with
  | some i => BitVec.ofNat 4 i.val
  | none => 0

/-! ### Seven-bit operands -/

/-- `p & 0x7F`: bits 6..0 of a parameter (R68, R152). -/
def mask7 (n : Nat) : Data7 := BitVec.ofNat 7 n

/-! ### The pitch-bend operand -/

/-- `u = (value + 8192) mod 16384`, 14 bits (R69, R159). -/
def biased14 (v : Int) : BitVec 14 := BitVec.ofInt 14 (v + 8192)

/-- `Byte1 = u[6:0]` (R69). -/
def low7 (u : BitVec 14) : Data7 := u.extractLsb' 0 7

/-- `Byte2 = u[13:7]` (R69). -/
def high7 (u : BitVec 14) : Data7 := u.extractLsb' 7 7

/-- `value = a + (b << 7) - 8192`, exact (R69, R102). -/
def bendValue (a b : Data7) : Int := (a.toNat : Int) + ((b.toNat : Int) <<< (7 : Nat)) - 8192

/-! ### Assembly -/

/-- `assemble(s, c)`: the event of a complete message (R94), the family from `opc(s)`, the channel from
`chan(s)` and the parameters from `c` in order (R96 to R102). None where `c` does not have the family's
length, which no reachable state meets (log 11). -/
def assemble (s : Byte) (c : List Data7) : Option MidiEvent :=
  match opc s, c with
  | 0x8#4, [a, b] => some (.noteOff (chan s) a.toNat b.toNat)
  | 0x9#4, [a, b] => some (.noteOn (chan s) a.toNat b.toNat)
  | 0xA#4, [a, b] => some (.polyPressure (chan s) a.toNat b.toNat)
  | 0xB#4, [a, b] => some (.controlChange (chan s) a.toNat b.toNat)
  | 0xC#4, [a] => some (.programChange (chan s) a.toNat)
  | 0xD#4, [a] => some (.channelPressure (chan s) a.toNat)
  | 0xE#4, [a, b] => some (.pitchBend (chan s) (bendValue a b))
  | _, _ => none

end Sys2Proof.Machine
end

