-- ==== Sys2Proof/Machine/Ops.lean ====
section
/-! DEFINITION. The shared operations: the steps of the decoder (40_decoder_channel_voice.md R92 to R95,
41_decoder_system.md R120, R137), the encoder's results (42_encoder.md R151, R152), how a result lands in
the state, reset (70_reset_and_hazards.md R201), and taking the next input.
There is no trap entry and no return (60_exceptions.md R191, R192): what stands in their place is the
anomaly, a ghost name that saves nothing and transfers nothing. -/

namespace Sys2Proof.Machine

/-! ### The decoder -/

/-- The state update of every status byte, in every state (R92). -/
def DecoderState.cache (S : DecoderState) (b : Byte) : DecoderState :=
  { S with runningStatus := some b, collected := [], expectedCount := dlen b }

/-- `AbandonedMessage` when a status byte finds a data byte collected (R92, R184). -/
def DecoderState.abandoned (S : DecoderState) : List Anomaly :=
  if S.collected.isEmpty then [] else [.abandonedMessage]

/-- A channel-voice status byte: cached, no event (R92). -/
def channelStatusStep (b : Byte) (S : DecoderState) : FeedOut := ⟨S.cache b, none, S.abandoned⟩

/-- A system status byte: cached, and its event if `RT_TABLE` has it (R120). -/
def systemStatusStep (p : Params) (b : Byte) (S : DecoderState) : FeedOut :=
  match rt p b with
  | some k => ⟨S.cache b, some (.systemRealtime k), S.abandoned⟩
  | none => ⟨S.cache b, none, S.abandoned ++ [.unsupportedStatus]⟩

/-- A data byte under the channel-voice status `s`: append, test, assemble (R94). -/
def appendStep (s : Byte) (d : Data7) (S : DecoderState) : FeedOut :=
  let c := S.collected ++ [d]
  if c.length = S.expectedCount.val then ⟨{ S with collected := [] }, assemble s c, []⟩
  else ⟨{ S with collected := c }, none, []⟩

/-- A data byte: which of the three cases (R93, R95, R137). -/
def dataStep (d : Data7) (S : DecoderState) : FeedOut :=
  match S.runningStatus with
  | none => ⟨S, none, [.orphanData]⟩
  | some s => if opc s = 0xF#4 then ⟨S, none, [.systemData]⟩ else appendStep s d S

/-! ### The encoder -/

/-- A result of three bytes: status byte, then two data bytes (R77, R151, R152). -/
def encodeThree (nib : Nibble) (ch : Chan) (x y : Data7) : EncodeOut :=
  ⟨some [statusByte nib ch, dataByte x, dataByte y], []⟩

/-- A result of two bytes: status byte, then one data byte (R77, R151, R152). -/
def encodeTwo (nib : Nibble) (ch : Chan) (x : Data7) : EncodeOut :=
  ⟨some [statusByte nib ch, dataByte x], []⟩

/-- No bytes, `UnsupportedEvent` (R160, R161, R185). -/
def encodeNothing : EncodeOut := ⟨none, [.unsupportedEvent]⟩

/-! ### How a result lands in the state -/

/-- A decoder step: the registers, at most one event on S2 (R50, R90), the ghost names. -/
def State.putFeed (s : State) (f : FeedOut) : State :=
  { s with dec := f.state, evOut := s.evOut ++ f.out.toList,
           decAnomalies := s.decAnomalies ++ f.anomalies }

/-- An encoder call: at most one byte group on S4, none for a `None` result (R50, R206), the ghost names. -/
def State.putEncode (s : State) (r : EncodeOut) : State :=
  { s with wireOut := s.wireOut ++ r.bytes.toList, encAnomalies := s.encAnomalies ++ r.anomalies }

/-- The reset line: the decoder's state becomes `reset_state`, no event is emitted for a message in
progress, and the encoder is not affected (R200, R201, R202). -/
def State.applyReset (s : State) : State := { s with dec := DecoderState.reset }

/-! ### Taking the next input -/

/-- The next item of the input: each taken once, in order, none skipped (R41, R48). -/
def fetch (s : State) : Fetched :=
  match s.input with
  | [] => .idle
  | .rst :: rest => .rst { s with input := rest }
  | .word w :: rest =>
    match decode s.params w with
    | .ok i => .run i { s with input := rest }
    | .error m => .refused (.notPresentable m)

/-- The state with a numbered table word (`tableWord`) next to arrive, ahead of what was; log 5, 6. -/
def State.placeTableWord (s : State) (nbits w : Nat) : State :=
  { s with input := .word (tableWord nbits w) :: s.input }

end Sys2Proof.Machine
end

