-- ==== Sys2Proof/Machine/ChannelVoice.lean ====
section
/-! DEFINITION. The meanings of the seven channel-voice status bytes and of the data byte
(40_decoder_channel_voice.md R92 to R102). A status byte is cached and emits nothing; the event of its
message comes with the last data byte (R212). -/

namespace Sys2Proof.Machine

/-- NOTE_OFF (R96): status byte 0x80 + ch. -/
def execNoteOff (ch : Chan) (s : State) : Host.Outcome State Fault Refusal :=
  .next (s.putFeed (channelStatusStep (statusByte 0x8#4 ch) s.dec))

/-- NOTE_ON (R97): status byte 0x90 + ch. -/
def execNoteOn (ch : Chan) (s : State) : Host.Outcome State Fault Refusal :=
  .next (s.putFeed (channelStatusStep (statusByte 0x9#4 ch) s.dec))

/-- POLY_PRESSURE (R98): status byte 0xA0 + ch. -/
def execPolyPressure (ch : Chan) (s : State) : Host.Outcome State Fault Refusal :=
  .next (s.putFeed (channelStatusStep (statusByte 0xA#4 ch) s.dec))

/-- CONTROL_CHANGE (R99): status byte 0xB0 + ch. -/
def execControlChange (ch : Chan) (s : State) : Host.Outcome State Fault Refusal :=
  .next (s.putFeed (channelStatusStep (statusByte 0xB#4 ch) s.dec))

/-- PROGRAM_CHANGE (R100): status byte 0xC0 + ch. -/
def execProgramChange (ch : Chan) (s : State) : Host.Outcome State Fault Refusal :=
  .next (s.putFeed (channelStatusStep (statusByte 0xC#4 ch) s.dec))

/-- CHANNEL_PRESSURE (R101): status byte 0xD0 + ch. -/
def execChannelPressure (ch : Chan) (s : State) : Host.Outcome State Fault Refusal :=
  .next (s.putFeed (channelStatusStep (statusByte 0xD#4 ch) s.dec))

/-- PITCH_BEND (R102): status byte 0xE0 + ch. -/
def execPitchBend (ch : Chan) (s : State) : Host.Outcome State Fault Refusal :=
  .next (s.putFeed (channelStatusStep (statusByte 0xE#4 ch) s.dec))

/-- DATA (R93, R94, R95, R137): the data-byte step. -/
def execData (d : Data7) (s : State) : Host.Outcome State Fault Refusal :=
  .next (s.putFeed (dataStep d s.dec))

end Sys2Proof.Machine
end

