-- ==== Sys2Proof/Machine/Encoder.lean ====
section
/-! DEFINITION. The meanings of the nine event kinds at the encoder (42_encoder.md R153 to R161): from one
event to three bytes, two bytes or nothing, reading nothing but the event (R27, R150). -/

namespace Sys2Proof.Machine

/-- ENC_NOTE_OFF (R153). -/
def execEncNoteOff (ch : Chan) (note velocity : Nat) (s : State) : Host.Outcome State Fault Refusal :=
  .next (s.putEncode (encodeThree 0x8#4 ch (mask7 note) (mask7 velocity)))

/-- ENC_NOTE_ON (R154): velocity 0 stays a NoteOn. -/
def execEncNoteOn (ch : Chan) (note velocity : Nat) (s : State) : Host.Outcome State Fault Refusal :=
  .next (s.putEncode (encodeThree 0x9#4 ch (mask7 note) (mask7 velocity)))

/-- ENC_POLY_PRESSURE (R155). -/
def execEncPolyPressure (ch : Chan) (note pressure : Nat) (s : State) :
    Host.Outcome State Fault Refusal :=
  .next (s.putEncode (encodeThree 0xA#4 ch (mask7 note) (mask7 pressure)))

/-- ENC_CONTROL_CHANGE (R156). -/
def execEncControlChange (ch : Chan) (controller value : Nat) (s : State) :
    Host.Outcome State Fault Refusal :=
  .next (s.putEncode (encodeThree 0xB#4 ch (mask7 controller) (mask7 value)))

/-- ENC_PROGRAM_CHANGE (R157): two bytes. -/
def execEncProgramChange (ch : Chan) (program : Nat) (s : State) :
    Host.Outcome State Fault Refusal :=
  .next (s.putEncode (encodeTwo 0xC#4 ch (mask7 program)))

/-- ENC_CHANNEL_PRESSURE (R158): two bytes. -/
def execEncChannelPressure (ch : Chan) (pressure : Nat) (s : State) :
    Host.Outcome State Fault Refusal :=
  .next (s.putEncode (encodeTwo 0xD#4 ch (mask7 pressure)))

/-- ENC_PITCH_BEND (R159): the biased value, low half first; out of range it wraps modulo 16384. -/
def execEncPitchBend (ch : Chan) (value : Int) (s : State) : Host.Outcome State Fault Refusal :=
  .next (s.putEncode (encodeThree 0xE#4 ch (low7 (biased14 value)) (high7 (biased14 value))))

/-- ENC_SYSTEM_REALTIME (R160): no bytes, whatever the sub-code. -/
def execEncSystemRealtime (_sub : BitVec 4) (s : State) : Host.Outcome State Fault Refusal :=
  .next (s.putEncode encodeNothing)

/-- ENC_OTHER (R161): no bytes, whatever the kind. -/
def execEncOther (_kindLow : BitVec 3) (s : State) : Host.Outcome State Fault Refusal :=
  .next (s.putEncode encodeNothing)

end Sys2Proof.Machine
end

