-- ==== Sys2Proof/Machine/System.lean ====
section
/-! DEFINITION. The meanings of the sixteen system status bytes (41_decoder_system.md R120 to R136). Each is
cached like any status byte; whether it emits, and which kind, is `RT_TABLE`'s alone (R120), so under the
default table CLOCK emits `Clock` and SYS_F4 emits nothing. -/

namespace Sys2Proof.Machine

/-- SYS_F0 (R121, start of exclusive): byte 0xF0. -/
def execSysF0 (s : State) : Host.Outcome State Fault Refusal :=
  .next (s.putFeed (systemStatusStep s.params 0xF0#8 s.dec))

/-- SYS_F1 (R122): byte 0xF1. -/
def execSysF1 (s : State) : Host.Outcome State Fault Refusal :=
  .next (s.putFeed (systemStatusStep s.params 0xF1#8 s.dec))

/-- SYS_F2 (R123): byte 0xF2. -/
def execSysF2 (s : State) : Host.Outcome State Fault Refusal :=
  .next (s.putFeed (systemStatusStep s.params 0xF2#8 s.dec))

/-- SYS_F3 (R124): byte 0xF3. -/
def execSysF3 (s : State) : Host.Outcome State Fault Refusal :=
  .next (s.putFeed (systemStatusStep s.params 0xF3#8 s.dec))

/-- SYS_F4 (R125): byte 0xF4. -/
def execSysF4 (s : State) : Host.Outcome State Fault Refusal :=
  .next (s.putFeed (systemStatusStep s.params 0xF4#8 s.dec))

/-- SYS_F5 (R126): byte 0xF5. -/
def execSysF5 (s : State) : Host.Outcome State Fault Refusal :=
  .next (s.putFeed (systemStatusStep s.params 0xF5#8 s.dec))

/-- TUNE_REQUEST (R127): byte 0xF6. -/
def execTuneRequest (s : State) : Host.Outcome State Fault Refusal :=
  .next (s.putFeed (systemStatusStep s.params 0xF6#8 s.dec))

/-- SYS_F7 (R128, end of exclusive): byte 0xF7. -/
def execSysF7 (s : State) : Host.Outcome State Fault Refusal :=
  .next (s.putFeed (systemStatusStep s.params 0xF7#8 s.dec))

/-- CLOCK (R129): byte 0xF8. -/
def execClock (s : State) : Host.Outcome State Fault Refusal :=
  .next (s.putFeed (systemStatusStep s.params 0xF8#8 s.dec))

/-- SYS_F9 (R130): byte 0xF9. -/
def execSysF9 (s : State) : Host.Outcome State Fault Refusal :=
  .next (s.putFeed (systemStatusStep s.params 0xF9#8 s.dec))

/-- START (R131): byte 0xFA. -/
def execStart (s : State) : Host.Outcome State Fault Refusal :=
  .next (s.putFeed (systemStatusStep s.params 0xFA#8 s.dec))

/-- CONTINUE (R132): byte 0xFB. -/
def execContinue (s : State) : Host.Outcome State Fault Refusal :=
  .next (s.putFeed (systemStatusStep s.params 0xFB#8 s.dec))

/-- STOP (R133): byte 0xFC. -/
def execStop (s : State) : Host.Outcome State Fault Refusal :=
  .next (s.putFeed (systemStatusStep s.params 0xFC#8 s.dec))

/-- SYS_FD (R134): byte 0xFD. -/
def execSysFD (s : State) : Host.Outcome State Fault Refusal :=
  .next (s.putFeed (systemStatusStep s.params 0xFD#8 s.dec))

/-- ACTIVE_SENSE (R135): byte 0xFE. -/
def execActiveSense (s : State) : Host.Outcome State Fault Refusal :=
  .next (s.putFeed (systemStatusStep s.params 0xFE#8 s.dec))

/-- RESET (R136; the decoder is not reset by it): byte 0xFF. -/
def execReset (s : State) : Host.Outcome State Fault Refusal :=
  .next (s.putFeed (systemStatusStep s.params 0xFF#8 s.dec))

end Sys2Proof.Machine
end

