-- ==== Sys2Proof/Machine/Dispatch.lean ====
section
/-! DEFINITION. One arm per instruction: exec sends each to its meaning. -/

namespace Sys2Proof.Machine

-- Decoder: channel-voice status bytes (R96 to R102), system status bytes (R121 to R136), data byte (R93).
-- Encoder: event kinds (R153 to R161).
def exec (i : Instr) (s : State) : Host.Outcome State Fault Refusal :=
  match i with
  | .noteOff ch => Sys2Proof.Machine.execNoteOff ch s
  | .noteOn ch => Sys2Proof.Machine.execNoteOn ch s
  | .polyPressure ch => Sys2Proof.Machine.execPolyPressure ch s
  | .controlChange ch => Sys2Proof.Machine.execControlChange ch s
  | .programChange ch => Sys2Proof.Machine.execProgramChange ch s
  | .channelPressure ch => Sys2Proof.Machine.execChannelPressure ch s
  | .pitchBend ch => Sys2Proof.Machine.execPitchBend ch s
  | .sysF0 => Sys2Proof.Machine.execSysF0 s
  | .sysF1 => Sys2Proof.Machine.execSysF1 s
  | .sysF2 => Sys2Proof.Machine.execSysF2 s
  | .sysF3 => Sys2Proof.Machine.execSysF3 s
  | .sysF4 => Sys2Proof.Machine.execSysF4 s
  | .sysF5 => Sys2Proof.Machine.execSysF5 s
  | .tuneRequest => Sys2Proof.Machine.execTuneRequest s
  | .sysF7 => Sys2Proof.Machine.execSysF7 s
  | .clock => Sys2Proof.Machine.execClock s
  | .sysF9 => Sys2Proof.Machine.execSysF9 s
  | .start => Sys2Proof.Machine.execStart s
  | .continue_ => Sys2Proof.Machine.execContinue s
  | .stop => Sys2Proof.Machine.execStop s
  | .sysFD => Sys2Proof.Machine.execSysFD s
  | .activeSense => Sys2Proof.Machine.execActiveSense s
  | .reset => Sys2Proof.Machine.execReset s
  | .data d => Sys2Proof.Machine.execData d s
  | .encNoteOff ch note velocity => Sys2Proof.Machine.execEncNoteOff ch note velocity s
  | .encNoteOn ch note velocity => Sys2Proof.Machine.execEncNoteOn ch note velocity s
  | .encPolyPressure ch note pressure => Sys2Proof.Machine.execEncPolyPressure ch note pressure s
  | .encControlChange ch controller value => Sys2Proof.Machine.execEncControlChange ch controller value s
  | .encProgramChange ch program => Sys2Proof.Machine.execEncProgramChange ch program s
  | .encChannelPressure ch pressure => Sys2Proof.Machine.execEncChannelPressure ch pressure s
  | .encPitchBend ch value => Sys2Proof.Machine.execEncPitchBend ch value s
  | .encSystemRealtime sub => Sys2Proof.Machine.execEncSystemRealtime sub s
  | .encOther kindLow => Sys2Proof.Machine.execEncOther kindLow s

end Sys2Proof.Machine
end

