-- ==== Sys2Proof/Machine/Step.lean ====
section
/-! DEFINITION. One step of the machine: the next input item is taken and run (00_scope.md R10). With no
input the codec waits and keeps its state (R55, R198, R203). -/

namespace Sys2Proof.Machine

/-- One step: an instruction is executed with its word taken from the input; the reset line resets the
decoder (R201); with nothing to take, nothing changes (R198). -/
def step (s : State) : Host.Outcome State Fault Refusal :=
  match fetch s with
  | .idle => .next s
  | .rst s' => .next s'.applyReset
  | .run i s' => exec i s'
  | .refused r => .refused r

/-- The state whose next step runs the numbered table word (log 5, 6). -/
def State.withFetchWord (s : State) (nbits w : Nat) : State := s.placeTableWord nbits w

end Sys2Proof.Machine
end

