-- ==== Sys2Proof/Machine/Layout.lean ====
section
/-! DEFINITION. The storage layout of the decoder's registers, 29 bits (10_state.md R34): a second view of the
same state, which no step uses. -/

namespace Sys2Proof.Machine

/-- The storage bits, by the names of R34. -/
structure Layout where
  rsValid : BitVec 1
  rs : BitVec 8
  psValid : BitVec 1
  ps : BitVec 8
  colCnt : BitVec 2
  col0 : BitVec 7
  exp : BitVec 2
  deriving DecidableEq, Repr

/-- The presence bit of an optional register (R34). -/
def validBit (r : Option Byte) : BitVec 1 := if r.isSome then 1 else 0

/-- The value of an optional register, 0x00 where it is absent (R34). -/
def storedByte (r : Option Byte) : Byte := r.getD 0

/-- The optional register that a presence bit and a value hold (R34). -/
def loadedByte (valid : BitVec 1) (v : Byte) : Option Byte := if valid = 1 then some v else none

/-- The registers as storage bits; `collected[1]` has no place, and a state between steps needs none (R34). -/
def Layout.pack (S : DecoderState) : Layout :=
  { rsValid := validBit S.runningStatus, rs := storedByte S.runningStatus,
    psValid := validBit S.pendingStatus, ps := storedByte S.pendingStatus,
    colCnt := BitVec.ofNat 2 S.collected.length, col0 := S.collected.headD 0,
    exp := BitVec.ofNat 2 S.expectedCount.val }

/-- The registers that storage bits hold: `col_cnt` 0 or 1, `exp` 0 to 2 (R34). -/
def Layout.unpack (L : Layout) : DecoderState :=
  { runningStatus := loadedByte L.rsValid L.rs, pendingStatus := loadedByte L.psValid L.ps,
    collected := if L.colCnt = 0 then [] else [L.col0],
    expectedCount := if L.exp = 0 then 0 else if L.exp = 1 then 1 else 2 }

/-- All bits 0 (R34). -/
def Layout.zero : Layout := ⟨0, 0, 0, 0, 0, 0, 0⟩

end Sys2Proof.Machine
end

