-- ==== Sys2Proof/Machine/Codec.lean ====
section
/-! DEFINITION. The three normative functions of the transaction level (00_scope.md R10): `resetState`,
`feed` (40_decoder_channel_voice.md R90 to R95, 41_decoder_system.md R120 and R137) and `encodeEvent`
(42_encoder.md R153 to R161, in the source's own arithmetic). They are written a second time here, beside the meanings, in the form the
spec lists them, so that a statement can hold the two against each other. A run is a fold (R214). -/

namespace Sys2Proof.Machine

/-- `reset_state` (R10, R33). -/
def resetState : DecoderState := DecoderState.reset

/-- `feed(S, byte) -> (S', out)` (R10, R90): total on every state and byte. A message is complete when the length
equals `expected_count`, as R94 says. The informative listing of 40_decoder_channel_voice.md section 4 tests
`len(c) < expected_count` instead, the same in every state with R25 (log 11). -/
def feed (p : Params) (S : DecoderState) (byte : Byte) : DecoderState × Option MidiEvent :=
  if byte.getLsbD 7 then
    (⟨some byte, S.pendingStatus, [], dlen byte⟩,
      if opc byte = 0xF#4 then (p.rtTable[(chan byte).toNat]'(chan byte).isLt).map .systemRealtime
      else none)
  else
    match S.runningStatus with
    | none => (S, none)
    | some s =>
      if opc s = 0xF#4 then (S, none)
      else if (S.collected ++ [dataValue byte]).length = S.expectedCount.val then
        ({ S with collected := [] }, assemble s (S.collected ++ [dataValue byte]))
      else ({ S with collected := S.collected ++ [dataValue byte] }, none)

/-- The status byte as a number, `opcode constant + channel` (R77, R151). -/
def statusSum (constant : Nat) (ch : Chan) : Byte := BitVec.ofNat 8 (constant + ch.toNat)

/-- A parameter masked, `p & 0x7F` (R77, R152). -/
def maskedByte (n : Nat) : Byte := BitVec.ofNat 8 (n &&& 0x7F)

/-- `(value + 8192) & 0x7F` (R69, R77): of an integer, the remainder modulo 128 (R11, R159). -/
def bendByte1 (v : Int) : Byte := BitVec.ofNat 8 ((v + 8192) % 128).toNat

/-- `((value + 8192) >> 7) & 0x7F`, the shift arithmetic (R11, R69, R77, R159). -/
def bendByte2 (v : Int) : Byte := BitVec.ofNat 8 (((v + 8192) >>> (7 : Nat)) % 128).toNat

/-- `encode(event) -> None | Some(bytes)` (R10, R150), by the table of R77. -/
def encodeEvent : MidiEvent → Option (List Byte)
  | .noteOff ch note velocity => some [statusSum 0x80 ch, maskedByte note, maskedByte velocity]
  | .noteOn ch note velocity => some [statusSum 0x90 ch, maskedByte note, maskedByte velocity]
  | .polyPressure ch note pressure => some [statusSum 0xA0 ch, maskedByte note, maskedByte pressure]
  | .controlChange ch controller value =>
    some [statusSum 0xB0 ch, maskedByte controller, maskedByte value]
  | .programChange ch program => some [statusSum 0xC0 ch, maskedByte program]
  | .channelPressure ch pressure => some [statusSum 0xD0 ch, maskedByte pressure]
  | .pitchBend ch value => some [statusSum 0xE0 ch, bendByte1 value, bendByte2 value]
  | .systemRealtime _ => none
  | .other => none

/-- A decoder run: `feed` folded over the bytes; the final state and the output at each byte (R214). -/
def feedTrace (p : Params) : DecoderState → List Byte → DecoderState × List (Option MidiEvent)
  | S, [] => (S, [])
  | S, b :: bs =>
    let r := feed p S b
    let t := feedTrace p r.1 bs
    (t.1, r.2 :: t.2)

/-- The final state of a decoder run (R214). -/
def feedState (p : Params) (S : DecoderState) (bs : List Byte) : DecoderState := (feedTrace p S bs).1

/-- The events a decoder run emits, in order (R214). -/
def feedEvents (p : Params) (S : DecoderState) (bs : List Byte) : List MidiEvent :=
  (feedTrace p S bs).2.reduceOption

end Sys2Proof.Machine
end

