-- ==== Sys2Proof/Machine/Ports.lean ====
section
/-! DEFINITION. The port level (20_memory.md R54, R55; 30_encoding.md R72 to R75; 42_encoder.md R165): the
event as port fields, one clock cycle of the decoder, and the encoder as a combinational function of its
input bits. It adds no behaviour to the transaction level (R56); statements say so. -/

namespace Sys2Proof.Machine

/-! ### The event format (R72 to R74) -/

/-- An event as port fields: `{kind, chan}` is the status byte of its family, unused fields are 0 (R73,
R74). `Other` stands for every kind 0x0..0x7; 0 is taken (log 14). -/
def eventToPort (p : Params) : MidiEvent → PortEvent
  | .noteOff ch note velocity => ⟨0x8#4, ch, note, velocity, 0⟩
  | .noteOn ch note velocity => ⟨0x9#4, ch, note, velocity, 0⟩
  | .polyPressure ch note pressure => ⟨0xA#4, ch, note, pressure, 0⟩
  | .controlChange ch controller value => ⟨0xB#4, ch, controller, value, 0⟩
  | .programChange ch program => ⟨0xC#4, ch, program, 0, 0⟩
  | .channelPressure ch pressure => ⟨0xD#4, ch, pressure, 0, 0⟩
  | .pitchBend ch value => ⟨0xE#4, ch, 0, 0, value⟩
  | .systemRealtime k => ⟨0xF#4, rtCode p k, 0, 0, 0⟩
  | .other => ⟨0x0#4, 0, 0, 0, 0⟩

/-- The event that port fields stand for (R73). Kind 0xF with a sub-code outside `RT_TABLE` names none of
the seven kinds; it is `Other` here, and the encoder gives no bytes either way (R160, R161; log 14). -/
def portToEvent (p : Params) (e : PortEvent) : MidiEvent :=
  match e.kind with
  | 0x8#4 => .noteOff e.chan e.a e.b
  | 0x9#4 => .noteOn e.chan e.a e.b
  | 0xA#4 => .polyPressure e.chan e.a e.b
  | 0xB#4 => .controlChange e.chan e.a e.b
  | 0xC#4 => .programChange e.chan e.a
  | 0xD#4 => .channelPressure e.chan e.a
  | 0xE#4 => .pitchBend e.chan e.bend
  | 0xF#4 =>
    match rt p (statusByte 0xF#4 e.chan) with
    | some k => .systemRealtime k
    | none => .other
  | _ => .other

/-- The event fields as bits, `DATA_W` and `BEND_W` wide (R54, R72). -/
structure EventPins (dw bw : Nat) where
  kind : BitVec 4
  chan : BitVec 4
  a : BitVec dw
  b : BitVec dw
  bend : BitVec bw
  deriving DecidableEq, Repr

/-- All event fields 0 (R55). -/
def EventPins.zero (dw bw : Nat) : EventPins dw bw := ⟨0, 0, 0, 0, 0⟩

/-- Port fields as bits: `a` and `b` unsigned, `bend` two's complement (R72, R74). -/
def EventPins.ofPort (dw bw : Nat) (e : PortEvent) : EventPins dw bw :=
  ⟨e.kind, e.chan, BitVec.ofNat dw e.a, BitVec.ofNat dw e.b, BitVec.ofInt bw e.bend⟩

/-- The numbers the bits stand for (R72). -/
def EventPins.toPort {dw bw : Nat} (e : EventPins dw bw) : PortEvent :=
  ⟨e.kind, e.chan, e.a.toNat, e.b.toNat, e.bend.toInt⟩

/-! ### The decoder, one clock cycle (R54, R55) -/

/-- The decoder's inputs in one cycle (R54). -/
structure DecIn where
  rst : Bool
  valid : Bool
  byte : Byte
  deriving DecidableEq, Repr

/-- The decoder's outputs in one cycle (R54). -/
structure DecOut (dw bw : Nat) where
  valid : Bool
  ev : EventPins dw bw
  deriving DecidableEq, Repr

/-- The outputs that show an event, or that show none: then every field is 0 (R55, R74). -/
def DecOut.show_ (p : Params) : Option MidiEvent → DecOut p.dataW p.bendW
  | some ev => ⟨true, EventPins.ofPort _ _ (eventToPort p ev)⟩
  | none => ⟨false, EventPins.zero _ _⟩

/-- One cycle: the state after the rising edge, and the outputs during the cycle. Reset wins over a byte; a
cycle without a valid byte changes nothing (R55, R190, R201). -/
def decCycle (p : Params) (i : DecIn) (S : DecoderState) :
    DecoderState × DecOut p.dataW p.bendW :=
  if i.rst then (resetState, DecOut.show_ p none)
  else if i.valid then ((feed p S i.byte).1, DecOut.show_ p (feed p S i.byte).2)
  else (S, DecOut.show_ p none)

/-- A sequence of cycles: the last state and the outputs of each cycle (R56). -/
def decCycles (p : Params) :
    DecoderState → List DecIn → DecoderState × List (DecOut p.dataW p.bendW)
  | S, [] => (S, [])
  | S, i :: is =>
    let r := decCycle p i S
    let t := decCycles p r.1 is
    (t.1, r.2 :: t.2)

/-- What a cycle is at the transaction level: the reset line, a byte, or no step at all (R55, R56). -/
def DecIn.items (i : DecIn) : List InItem :=
  if i.rst then [.rst] else if i.valid then [.word (.wire i.byte)] else []

/-! ### The encoder, combinational (R55, R75, R165) -/

/-- The encoder's inputs (R54). -/
structure EncIn (dw bw : Nat) where
  valid : Bool
  ev : EventPins dw bw
  deriving DecidableEq, Repr

/-- The encoder's outputs (R54, R75). -/
structure EncOut where
  len : BitVec 2
  b0 : Byte
  b1 : Byte
  b2 : Byte
  deriving DecidableEq, Repr

/-- `enc_len = 0` and all bytes 0x00 (R55, R75). -/
def EncOut.nothing : EncOut := ⟨0, 0, 0, 0⟩

/-- A result on the ports: only the first `enc_len` bytes are meant, the others are 0x00 (R75). -/
def EncOut.ofResult : Option (List Byte) → EncOut
  | some [b0, b1] => ⟨2, b0, b1, 0⟩
  | some [b0, b1, b2] => ⟨3, b0, b1, b2⟩
  | _ => EncOut.nothing

/-- The encoder as hardware, bit by bit (R165): `enc_b0 = {kind, chan}`, `enc_b1` and `enc_b2` from the low
seven bits of `a` and `b`, or from `bend[13:0]` with bit 13 inverted. -/
def encPins {dw bw : Nat} (i : EncIn dw bw) : EncOut :=
  let u : BitVec 14 := i.ev.bend.extractLsb' 0 14 ^^^ 0x2000#14
  if !i.valid then EncOut.nothing
  else
    match i.ev.kind with
    | 0x8#4 | 0x9#4 | 0xA#4 | 0xB#4 =>
      ⟨3, i.ev.kind ++ i.ev.chan, 0#1 ++ i.ev.a.extractLsb' 0 7, 0#1 ++ i.ev.b.extractLsb' 0 7⟩
    | 0xC#4 | 0xD#4 => ⟨2, i.ev.kind ++ i.ev.chan, 0#1 ++ i.ev.a.extractLsb' 0 7, 0⟩
    | 0xE#4 => ⟨3, i.ev.kind ++ i.ev.chan, 0#1 ++ u.extractLsb' 0 7, 0#1 ++ u.extractLsb' 7 7⟩
    | _ => EncOut.nothing

/-! ### Both agents in one cycle (R54, R55, R190) -/

/-- The ports of the codec in one cycle: the decoder's state after it, and what both agents show. -/
def cycle (p : Params) (d : DecIn) (e : EncIn p.dataW p.bendW) (S : DecoderState) :
    DecoderState × DecOut p.dataW p.bendW × EncOut :=
  ((decCycle p d S).1, (decCycle p d S).2, encPins e)

end Sys2Proof.Machine
end

