-- ==== Sys2Proof/Machine/Text.lean ====
section
/-! DEFINITION. The textual form of streams, events and decoder states (30_encoding.md R76): how the spec's
examples are written. No step uses it. -/

namespace Sys2Proof.Machine

/-- One hexadecimal digit, as the spec's examples write it. -/
def textDigit (n : Nat) : String :=
  ["0", "1", "2", "3", "4", "5", "6", "7", "8", "9", "A", "B", "C", "D", "E", "F"].getD n "?"

/-- A byte: `0x` and two digits (R11, R76). -/
def textByte (b : Byte) : String := "0x" ++ textDigit (b.toNat / 16) ++ textDigit (b.toNat % 16)

/-- A bracketed list of bytes in arrival order (R76). -/
def textBytes (bs : List Byte) : String := "[" ++ String.intercalate ", " (bs.map textByte) ++ "]"

/-- A name followed by fields in braces (R76); 123 and 125 are the two braces. -/
def textBraces (name : String) (fields : List String) : String :=
  name ++ String.singleton (Char.ofNat 123) ++ String.intercalate ", " fields
    ++ String.singleton (Char.ofNat 125)

/-- A field `name=value`, the value in decimal (R11, R76). -/
def textNat (name : String) (v : Nat) : String := name ++ "=" ++ toString v

/-- The `RtKind` name (R13, R76). -/
def textKind : RtKind → String
  | .clock => "Clock"
  | .start => "Start"
  | .continue_ => "Continue"
  | .stop => "Stop"
  | .activeSense => "ActiveSense"
  | .reset => "Reset"
  | .tuneRequest => "TuneRequest"

/-- An event: its case name and its fields (R13, R76). -/
def textEvent : MidiEvent → String
  | .noteOff ch note velocity =>
    textBraces "NoteOff" [textNat "channel" ch.toNat, textNat "note" note, textNat "velocity" velocity]
  | .noteOn ch note velocity =>
    textBraces "NoteOn" [textNat "channel" ch.toNat, textNat "note" note, textNat "velocity" velocity]
  | .polyPressure ch note pressure =>
    textBraces "PolyPressure"
      [textNat "channel" ch.toNat, textNat "note" note, textNat "pressure" pressure]
  | .controlChange ch controller value =>
    textBraces "ControlChange"
      [textNat "channel" ch.toNat, textNat "controller" controller, textNat "value" value]
  | .programChange ch program =>
    textBraces "ProgramChange" [textNat "channel" ch.toNat, textNat "program" program]
  | .channelPressure ch pressure =>
    textBraces "ChannelPressure" [textNat "channel" ch.toNat, textNat "pressure" pressure]
  | .pitchBend ch value =>
    textBraces "PitchBend" [textNat "channel" ch.toNat, "value=" ++ toString value]
  | .systemRealtime k => textBraces "SystemRealtime" ["kind=" ++ textKind k]
  | .other => "Other"

/-- An output column: `-` where there is no event (R76). -/
def textOut : Option MidiEvent → String
  | some e => textEvent e
  | none => "-"

/-- An optional register: its byte or `None` (R76). -/
def textRegister : Option Byte → String
  | some b => textByte b
  | none => "None"

/-- A decoder state, fields `rs`, `ps`, `col`, `exp` (R76). -/
def textState (S : DecoderState) : String :=
  textBraces "" ["rs=" ++ textRegister S.runningStatus, "ps=" ++ textRegister S.pendingStatus,
    "col=" ++ textBytes (S.collected.map dataByte), textNat "exp" S.expectedCount.val]

end Sys2Proof.Machine
end

