-- ==== Sys2Proof/Safety.lean ====
section
/-! DEFINITION. What the statements are told in: the invariants of reachable states (10_state.md R25), the
ranges of emitted events (00_scope.md R13), the shape of an encoder result (42_encoder.md R150), and runs. -/

namespace Sys2Proof

/-- The ranges of R13, which every event of the decoder keeps; the decoder emits no `Other` (R73). -/
def MidiEvent.InRange : MidiEvent → Prop
  | .noteOff _ a b | .noteOn _ a b | .polyPressure _ a b | .controlChange _ a b => a < 128 ∧ b < 128
  | .programChange _ a | .channelPressure _ a => a < 128
  | .pitchBend _ v => -8192 ≤ v ∧ v ≤ 8191
  | .systemRealtime _ => True
  | .other => False

/-- An event with each parameter reduced to what the wire carries (R163 (c)). -/
def MidiEvent.reduced : MidiEvent → MidiEvent
  | .noteOff ch a b => .noteOff ch (a % 128) (b % 128)
  | .noteOn ch a b => .noteOn ch (a % 128) (b % 128)
  | .polyPressure ch a b => .polyPressure ch (a % 128) (b % 128)
  | .controlChange ch a b => .controlChange ch (a % 128) (b % 128)
  | .programChange ch a => .programChange ch (a % 128)
  | .channelPressure ch a => .channelPressure ch (a % 128)
  | .pitchBend ch v => .pitchBend ch ((v + 8192) % 16384 - 8192)
  | .systemRealtime k => .systemRealtime k
  | .other => .other

/-- Port fields with every field that the kind does not use set to 0 (the table of R73). -/
def PortEvent.used (e : PortEvent) : PortEvent :=
  match e.kind with
  | 0x8#4 | 0x9#4 | 0xA#4 | 0xB#4 => ⟨e.kind, e.chan, e.a, e.b, 0⟩
  | 0xC#4 | 0xD#4 => ⟨e.kind, e.chan, e.a, 0, 0⟩
  | 0xE#4 => ⟨e.kind, e.chan, 0, 0, e.bend⟩
  | 0xF#4 => ⟨e.kind, e.chan, 0, 0, 0⟩
  | _ => ⟨e.kind, 0, 0, 0, 0⟩

/-! ### Classes of instructions -/

/-- The instructions of the encoder (R79); every other one is the decoder's. -/
def Instr.isEncoder : Instr → Bool
  | .encNoteOff _ _ _ | .encNoteOn _ _ _ | .encPolyPressure _ _ _ | .encControlChange _ _ _
  | .encProgramChange _ _ | .encChannelPressure _ _ | .encPitchBend _ _ | .encSystemRealtime _
  | .encOther _ => true
  | .noteOff _ | .noteOn _ | .polyPressure _ | .controlChange _ | .programChange _
  | .channelPressure _ | .pitchBend _ | .sysF0 | .sysF1 | .sysF2 | .sysF3 | .sysF4 | .sysF5
  | .tuneRequest | .sysF7 | .clock | .sysF9 | .start | .continue_ | .stop | .sysFD | .activeSense
  | .reset | .data _ => false

end Sys2Proof

namespace Sys2Proof.Machine

/-! ### Invariants -/

/-- R25, (I1) to (I5). (I4) is in the type of `collected`. -/
structure DecoderState.Inv (S : DecoderState) : Prop where
  /-- (I1): a cached byte is a status byte. -/
  cached : ∀ b, S.runningStatus = some b → isStatus b = true
  /-- (I2): the count is 0 before the first status byte. -/
  countNone : S.runningStatus = none → S.expectedCount = 0
  /-- (I2): the count is that of the cached status. -/
  countSome : ∀ b, S.runningStatus = some b → S.expectedCount = dlen b
  /-- (I3): a message in progress is not yet complete. -/
  notFull : 0 < S.expectedCount.val → S.collected.length < S.expectedCount.val
  /-- (I3): nothing is collected where nothing is expected. -/
  empty : S.expectedCount = 0 → S.collected = []
  /-- (I5). -/
  pending : S.pendingStatus = none

/-- A result of the encoder: two or three bytes, the first a status byte and every other a data byte (R150). -/
def GroupOk (g : List Byte) : Prop :=
  ∃ b0 rest, g = b0 :: rest ∧ (rest.length = 1 ∨ rest.length = 2) ∧ isStatus b0 = true ∧
    ∀ b ∈ rest, isStatus b = false

/-- The invariant of the machine: legal parameters, R25, and what has left the codec is in the spec's form. -/
structure State.Inv (s : State) : Prop where
  legal : s.params.Legal
  decoder : s.dec.Inv
  events : ∀ e ∈ s.evOut, e.InRange
  groups : ∀ g ∈ s.wireOut, GroupOk g

/-! ### The states the rules give -/

/-- What a status byte `b` with `n` data bytes leaves, as R92 writes it: `out` emitted, and the anomaly names
`AbandonedMessage` (if a data byte was collected, R184) and `names`. -/
def State.cached (s : State) (b : Byte) (n : Fin 3) (out : List MidiEvent) (names : List Anomaly) :
    State :=
  { s with
    dec := ⟨some b, s.dec.pendingStatus, [], n⟩
    evOut := s.evOut ++ out
    decAnomalies := s.decAnomalies ++
      ((if s.dec.collected = [] then [] else [.abandonedMessage]) ++ names) }

/-- What the system status byte 0xF0 + i leaves, as R120 writes it for the machine's `RT_TABLE`. -/
def State.systemCached (s : State) (i : Fin 16) : State :=
  match s.params.rtTable[i] with
  | some k => s.cached (BitVec.ofNat 8 (0xF0 + i.val)) 0 [.systemRealtime k] []
  | none => s.cached (BitVec.ofNat 8 (0xF0 + i.val)) 0 [] [.unsupportedStatus]

/-! ### Runs -/

/-- `n` steps of the machine, up to the first that does not answer a next state. -/
def runSteps : Nat → State → Host.Outcome State Fault Refusal
  | 0, s => .next s
  | n + 1, s =>
    match step s with
    | .next t => runSteps n t
    | .fault r => .fault r
    | .refused r => .refused r

/-- Instructions executed one after another, up to the first that does not answer a next state. -/
def execAll : List Instr → State → Host.Outcome State Fault Refusal
  | [], s => .next s
  | i :: is, s =>
    match exec i s with
    | .next t => execAll is t
    | .fault r => .fault r
    | .refused r => .refused r

/-- The bytes of the decoder's stream in an input, in order (S1 of R40). -/
def inputBytes : List InItem → List Byte
  | [] => []
  | .word (.wire b) :: rest => b :: inputBytes rest
  | .word (.event _) :: rest => inputBytes rest
  | .rst :: rest => inputBytes rest

/-- The events of the encoder's stream in an input, in order (S3 of R40). -/
def inputEvents : List InItem → List PortEvent
  | [] => []
  | .word (.event e) :: rest => e :: inputEvents rest
  | .word (.wire _) :: rest => inputEvents rest
  | .rst :: rest => inputEvents rest

/-- Every event of an input can be presented on the port (R208). -/
def InputFits (p : Params) (input : List InItem) : Prop :=
  ∀ e ∈ inputEvents input, e.misfit p = none

end Sys2Proof.Machine
end

