-- ==== Sys2Proof/Certificates/Slice0/Obligations.lean ====
section
/-! DEFINITION. The statements for the provers, one def Obligations.<Name> : Prop each. `exec`, `step`,
`decode` and `encode` are the model's; `feed`, `encodeEvent` and the port functions are the spec's normative
functions written a second time; `State.cached` and `State.systemCached` (Safety.lean) are the states R92 and
R120 write. A docstring says where a statement rests on a choice of the spec (D<n>) or of the model (log <n>). -/

open Sys2Proof Sys2Proof.Machine

/-! ### Reset -/

/-- R33 as the spec reads "empty" (D2), and the default parameters (R8, D7; the table is the one of R66 that the
spec presumes, D16, log 2): the decoder's four registers and the parameters right after reset, for every build. -/
def Obligations.ResetLeavesTheDecoderEmpty : Prop :=
  (∀ p : Params, (State.resetWith p).dec = ⟨none, none, [], 0⟩ ∧ (State.resetWith p).params = p) ∧
  State.reset.dec = ⟨none, none, [], 0⟩ ∧
  State.reset.params.dataW = 8 ∧ State.reset.params.bendW = 16 ∧
  State.reset.params.rtTable = #v[none, none, none, none, none, none, some .tuneRequest, none, some .clock,
    none, some .start, some .continue_, some .stop, none, some .activeSense, some .reset] ∧
  State.reset.params.rtTable = RtTable.default ∧ State.reset.params.Legal

/-- The invariant of `Obligations.EveryStepKeepsTheInvariant` holds at reset, for every legal build (R25, R33). -/
def Obligations.ResetHasTheInvariant : Prop :=
  State.reset.Inv ∧ ∀ p : Params, p.Legal → (State.resetWith p).Inv

/-! ### Decoding and encoding of instruction words -/

/-- Decoding the word of a well-formed instruction gives the instruction, with every operand at every value
its encoding admits and under all parameters. -/
def Obligations.DecodeOfEncodeIsTheInstruction : Prop :=
  ∀ (p : Params) (i : Instr), i.wf p = true → decode p (encode i) = .ok i

/-- The other direction: a decoded instruction is well-formed, and its word is the one it was decoded from,
less the port fields its kind does not use (R74, D8). -/
def Obligations.EncodeOfDecodeIsTheWord : Prop :=
  ∀ (p : Params) (w : InWord) (i : Instr), decode p w = .ok i →
    i.wf p = true ∧
    (∀ b, w = .wire b → encode i = .wire b ∧ i.isEncoder = false) ∧
    (∀ e, w = .event e → encode i = .event e.used ∧ i.isEncoder = true)

/-- Every word that decodes matches exactly one row of opcode_table.json, and that row is the decoded
instruction's (R79). -/
def Obligations.EveryWordHasExactlyOneRow : Prop :=
  ∀ (p : Params) (w : InWord) (i : Instr), decode p w = .ok i →
    (opcodeTable.filter (fun r => r.fits w)).map Row.mnemonic = [i.mnemonic]

/-- Every byte decodes; an event is rejected exactly when a field does not fit its port (U10, D7; log 10). -/
def Obligations.OnlyMisfitEventsAreRejected : Prop :=
  (∀ (p : Params) (b : Byte), ∃ i, decode p (.wire b) = .ok i) ∧
  (∀ (p : Params) (e : PortEvent),
    (∃ i, decode p (.event e) = .ok i) ↔
      (e.a < 2 ^ p.dataW ∧ e.b < 2 ^ p.dataW ∧
        -2 ^ (p.bendW - 1) ≤ e.bend ∧ e.bend < 2 ^ (p.bendW - 1)))

/-- Words written out from R61, R62, R65, R66 and R73 decode to what they stand for. A sanity check. -/
def Obligations.WrittenOutWordsDecode : Prop :=
  decodeByte 0b10000011#8 = .noteOff 3 ∧ decodeByte 0b10011111#8 = .noteOn 15 ∧
  decodeByte 0b10100001#8 = .polyPressure 1 ∧ decodeByte 0b10110000#8 = .controlChange 0 ∧
  decodeByte 0b11000101#8 = .programChange 5 ∧ decodeByte 0b11011111#8 = .channelPressure 15 ∧
  decodeByte 0b11100000#8 = .pitchBend 0 ∧ decodeByte 0b11110100#8 = .sysF4 ∧
  decodeByte 0b11111000#8 = .clock ∧ decodeByte 0b00111100#8 = .data 0x3C ∧
  decodeEvent ⟨0b1001#4, 0, 200, 5, 0⟩ = .encNoteOn 0 200 5 ∧
  decodeEvent ⟨0b1110#4, 4, 0, 0, -1⟩ = .encPitchBend 4 (-1) ∧
  decodeEvent ⟨0b0011#4, 0, 0, 0, 0⟩ = .encOther 3

/-- Fields an event's kind does not use, and bits above the masks, reach no output (R74, U8, U9; D8). -/
def Obligations.UnusedFieldsAndHighBitsDoNotMatter : Prop :=
  (∀ (p : Params) (e e' : PortEvent), e.misfit p = none → e'.misfit p = none → e.used = e'.used →
    decode p (.event e) = decode p (.event e')) ∧
  (∀ (ch : Chan) (x x' y y' : Nat) (v v' : Int) (s : State),
    x % 128 = x' % 128 → y % 128 = y' % 128 → v % 16384 = v' % 16384 →
    exec (.encNoteOff ch x y) s = exec (.encNoteOff ch x' y') s ∧
    exec (.encNoteOn ch x y) s = exec (.encNoteOn ch x' y') s ∧
    exec (.encPolyPressure ch x y) s = exec (.encPolyPressure ch x' y') s ∧
    exec (.encControlChange ch x y) s = exec (.encControlChange ch x' y') s ∧
    exec (.encProgramChange ch x) s = exec (.encProgramChange ch x') s ∧
    exec (.encChannelPressure ch x) s = exec (.encChannelPressure ch x') s ∧
    exec (.encPitchBend ch v) s = exec (.encPitchBend ch v') s)

/-! ### The step -/

/-- A step runs the decoded instruction, with its word taken from the input. -/
def Obligations.StepRunsTheDecodedInstruction : Prop :=
  ∀ (s : State) (w : InWord) (rest : List InItem) (i : Instr),
    s.input = .word w :: rest → decode s.params w = .ok i →
    step s = exec i { s with input := rest }

/-- What a step does without an instruction: it waits (R198), or the reset line resets the decoder and
nothing else (R200, R201; D2; log 13). -/
def Obligations.StepWaitsOrResets : Prop :=
  (∀ s : State, s.input = [] → step s = .next s) ∧
  (∀ (s : State) (rest : List InItem), s.input = .rst :: rest →
    step s = .next { s with input := rest, dec := ⟨none, none, [], 0⟩ })

/-- R180, R213: no instruction stops, no step faults, and a step refuses exactly an event that cannot be
presented, by name (U10; log 10). -/
def Obligations.NothingStopsTheCodec : Prop :=
  (∀ (i : Instr) (s : State), ∃ t, exec i s = .next t) ∧
  (∀ (s : State) (r : Fault), step s ≠ .fault r) ∧
  (∀ (s : State) (r : Refusal), step s = .refused r ↔
    ∃ e rest m, s.input = .word (.event e) :: rest ∧ e.misfit s.params = some m ∧
      r = .notPresentable m)

/-- From every state with legal parameters, the decoder registers as R25 says (its (I2) and (I5) are the spec's
decisions D9 to D12), every emitted event in the ranges of R13 and every byte group as R150 says, a step leads
to such a state. -/
def Obligations.EveryStepKeepsTheInvariant : Prop :=
  ∀ s t : State, s.Inv → step s = .next t → t.Inv

/-! ### Status bytes -/

/-- R92, with R120's event output for the opcode nibble 0xF (the spec's decision D12; the counts are those of D9
and D12): every status byte, in every state, is cached, clears `collected`, sets `expected_count` from its opcode
nibble and leaves `pending_status`; a channel-voice status emits nothing; nothing else changes. The anomaly names
are those R92 lists (ghosts, D19; log 8). -/
def Obligations.StatusByteIsCachedInEveryState : Prop :=
  ∀ (b : Byte) (s : State), 0x80 ≤ b.toNat →
    ∃ (n : Fin 3) (out : List MidiEvent) (names : List Anomaly),
      exec (decodeByte b) s = .next (s.cached b n out names) ∧
      (b.toNat / 16 = 0x8 ∨ b.toNat / 16 = 0x9 ∨ b.toNat / 16 = 0xA ∨ b.toNat / 16 = 0xB ∨
        b.toNat / 16 = 0xE → n = 2) ∧
      (b.toNat / 16 = 0xC ∨ b.toNat / 16 = 0xD → n = 1) ∧
      (b.toNat / 16 = 0xF → n = 0) ∧
      (b.toNat / 16 ≠ 0xF → out = [] ∧ names = []) ∧
      (b.toNat / 16 = 0xF →
        (∀ k, rt s.params b = some k → out = [.systemRealtime k] ∧ names = []) ∧
        (rt s.params b = none → out = [] ∧ names = [.unsupportedStatus]))

/-- R96 to R102, the status byte of each family: the result of the seven instructions, in every state (the count
of 0xC0 and 0xD0 is the spec's decision D9; the recorded name AbandonedMessage is a ghost, D19, log 8). -/
def Obligations.ChannelVoiceStatusResults : Prop :=
  ∀ (ch : Chan) (s : State),
    exec (.noteOff ch) s = .next (s.cached (statusSum 0x80 ch) 2 [] []) ∧
    exec (.noteOn ch) s = .next (s.cached (statusSum 0x90 ch) 2 [] []) ∧
    exec (.polyPressure ch) s = .next (s.cached (statusSum 0xA0 ch) 2 [] []) ∧
    exec (.controlChange ch) s = .next (s.cached (statusSum 0xB0 ch) 2 [] []) ∧
    exec (.programChange ch) s = .next (s.cached (statusSum 0xC0 ch) 1 [] []) ∧
    exec (.channelPressure ch) s = .next (s.cached (statusSum 0xD0 ch) 1 [] []) ∧
    exec (.pitchBend ch) s = .next (s.cached (statusSum 0xE0 ch) 2 [] [])

/-- R120 to R136 for every `RT_TABLE`, legal or not: the result of the sixteen instructions, in every state
(D12: the event is gated on the table). That the ghost log has AbandonedMessage before UnsupportedStatus is the
model's choice (D19, log 8). -/
def Obligations.SystemStatusResults : Prop :=
  ∀ s : State,
    exec .sysF0 s = .next (s.systemCached 0) ∧ exec .sysF1 s = .next (s.systemCached 1) ∧
    exec .sysF2 s = .next (s.systemCached 2) ∧ exec .sysF3 s = .next (s.systemCached 3) ∧
    exec .sysF4 s = .next (s.systemCached 4) ∧ exec .sysF5 s = .next (s.systemCached 5) ∧
    exec .tuneRequest s = .next (s.systemCached 6) ∧ exec .sysF7 s = .next (s.systemCached 7) ∧
    exec .clock s = .next (s.systemCached 8) ∧ exec .sysF9 s = .next (s.systemCached 9) ∧
    exec .start s = .next (s.systemCached 10) ∧ exec .continue_ s = .next (s.systemCached 11) ∧
    exec .stop s = .next (s.systemCached 12) ∧ exec .sysFD s = .next (s.systemCached 13) ∧
    exec .activeSense s = .next (s.systemCached 14) ∧ exec .reset s = .next (s.systemCached 15)

/-- R121 to R136 under the default `RT_TABLE`, the MIDI 1.0 assignment the spec takes from general knowledge
(D16, K1; log 2): which byte emits which kind, the event gated on the table and the count 0 (D12). RESET emits and
does not reset the decoder (R136). That the ghost log has AbandonedMessage before UnsupportedStatus is the model's
choice (D19, log 8). -/
def Obligations.DefaultTableEvents : Prop :=
  ∀ s : State, s.params.rtTable = RtTable.default →
    exec .sysF0 s = .next (s.cached 0xF0#8 0 [] [.unsupportedStatus]) ∧
    exec .sysF1 s = .next (s.cached 0xF1#8 0 [] [.unsupportedStatus]) ∧
    exec .sysF2 s = .next (s.cached 0xF2#8 0 [] [.unsupportedStatus]) ∧
    exec .sysF3 s = .next (s.cached 0xF3#8 0 [] [.unsupportedStatus]) ∧
    exec .sysF4 s = .next (s.cached 0xF4#8 0 [] [.unsupportedStatus]) ∧
    exec .sysF5 s = .next (s.cached 0xF5#8 0 [] [.unsupportedStatus]) ∧
    exec .tuneRequest s = .next (s.cached 0xF6#8 0 [.systemRealtime .tuneRequest] []) ∧
    exec .sysF7 s = .next (s.cached 0xF7#8 0 [] [.unsupportedStatus]) ∧
    exec .clock s = .next (s.cached 0xF8#8 0 [.systemRealtime .clock] []) ∧
    exec .sysF9 s = .next (s.cached 0xF9#8 0 [] [.unsupportedStatus]) ∧
    exec .start s = .next (s.cached 0xFA#8 0 [.systemRealtime .start] []) ∧
    exec .continue_ s = .next (s.cached 0xFB#8 0 [.systemRealtime .continue_] []) ∧
    exec .stop s = .next (s.cached 0xFC#8 0 [.systemRealtime .stop] []) ∧
    exec .sysFD s = .next (s.cached 0xFD#8 0 [] [.unsupportedStatus]) ∧
    exec .activeSense s = .next (s.cached 0xFE#8 0 [.systemRealtime .activeSense] []) ∧
    exec .reset s = .next (s.cached 0xFF#8 0 [.systemRealtime .reset] [])

/-- What every legal `RT_TABLE` fixes (R8, R66; log 3): 0xF0, 0xF4 and 0xF7 emit nothing, one byte of
0xF1..0xF6 emits and it emits `TuneRequest`, and each of the seven kinds has exactly one byte that emits it. -/
def Obligations.EveryLegalTableSupportsSevenBytes : Prop :=
  ∀ (p : Params) (S : DecoderState), p.Legal →
    (feed p S 0xF0#8).2 = none ∧ (feed p S 0xF4#8).2 = none ∧ (feed p S 0xF7#8).2 = none ∧
    (∃! b : Byte, (0xF1 ≤ b.toNat ∧ b.toNat ≤ 0xF6) ∧ (feed p S b).2 ≠ none) ∧
    (∀ b : Byte, 0xF1 ≤ b.toNat → b.toNat ≤ 0xF6 → (feed p S b).2 ≠ none →
      (feed p S b).2 = some (.systemRealtime .tuneRequest)) ∧
    (∀ k : RtKind, ∃! b : Byte, (feed p S b).2 = some (.systemRealtime k))

/-- R92, "The new state does not depend on the old one at all"; R103, R184: whatever had been collected and
counted, and whatever status was cached, makes no difference from a status byte on. -/
def Obligations.StatusByteForgetsThePast : Prop :=
  ∀ (b : Byte) (is : List Instr) (s : State) (r : Option Byte) (c : List Data7) (n : Fin 3),
    0x80 ≤ b.toNat →
    ∃ t t', execAll (decodeByte b :: is) s = .next t ∧
      execAll (decodeByte b :: is)
        { s with dec := { s.dec with runningStatus := r, collected := c, expectedCount := n } } = .next t' ∧
      t'.dec = t.dec ∧ t'.evOut = t.evOut ∧ t'.wireOut = t.wireOut

/-- R21: `running_status` is the most recent status byte fed, whatever its opcode; data bytes and emitted events
never write it; from reset it is absent exactly while no status byte has been fed, and its 128 present values
are all reached. -/
def Obligations.RunningStatusIsTheLastStatusByte : Prop :=
  (∀ (bs : List Byte) (s : State), ∃ t, execAll (bs.map decodeByte) s = .next t ∧
    t.dec.runningStatus = ((bs.filter fun b => 0x80 ≤ b.toNat).getLast?).or s.dec.runningStatus) ∧
  (∀ (p : Params) (bs : List Byte) (t : State),
    execAll (bs.map decodeByte) (State.resetWith p) = .next t →
    (t.dec.runningStatus = none ↔ ∀ b ∈ bs, b.toNat < 0x80) ∧
    ∀ b, t.dec.runningStatus = some b → 0x80 ≤ b.toNat) ∧
  (∀ (p : Params) (b : Byte), 0x80 ≤ b.toNat →
    ∃ t, execAll [decodeByte b] (State.resetWith p) = .next t ∧ t.dec.runningStatus = some b)

/-- R125, the source's own example: 0xF4 emits nothing and does not disturb the message that follows, from any
state. The premise is what every legal `RT_TABLE` says of 0xF4 (log 3); the count 0 cached with it is D12.
That the ghost log has AbandonedMessage before UnsupportedStatus is the model's choice (D19, log 8). -/
def Obligations.UnsupportedStatusDoesNotCorruptTheNextMessage : Prop :=
  ∀ (s : State) (ch : Chan) (a b : Data7), s.params.rtTable[4] = none →
    exec .sysF4 s = .next (s.cached 0xF4#8 0 [] [.unsupportedStatus]) ∧
    ∃ t, execAll [.sysF4, .noteOn ch, .data a, .data b] s = .next t ∧
      t.evOut = s.evOut ++ [.noteOn ch a.toNat b.toNat] ∧
      t.dec = ⟨some (statusSum 0x90 ch), s.dec.pendingStatus, [], 2⟩

/-! ### Data bytes -/

/-- R182: a data byte with no status cached changes nothing and emits nothing; its name is recorded in the ghost
log (log 8). -/
def Obligations.OrphanDataChangesNothing : Prop :=
  ∀ (d : Data7) (s : State), s.dec.runningStatus = none →
    exec (.data d) s = .next { s with decAnomalies := s.decAnomalies ++ [.orphanData] }

/-- R95: while no status is cached any number of data bytes change nothing and emit nothing; the first status
byte ends the seek; and no instruction ever returns to it. (The recorded names are the ghosts of log 8.) -/
def Obligations.SeekEndsAtTheFirstStatusByte : Prop :=
  (∀ (ds : List Data7) (b : Byte) (s : State), s.dec.runningStatus = none → 0x80 ≤ b.toNat →
    execAll (ds.map Instr.data) s =
      .next { s with decAnomalies := s.decAnomalies ++ List.replicate ds.length .orphanData } ∧
    ∃ t, execAll (ds.map Instr.data ++ [decodeByte b]) s = .next t ∧ t.dec.runningStatus = some b) ∧
  (∀ (i : Instr) (s t : State), s.dec.runningStatus ≠ none → exec i s = .next t →
    t.dec.runningStatus ≠ none)

/-- R137 (the spec's decision D13): data bytes under a system status, supported or not and however many, are
discarded. The recorded names are ghosts (D19, log 8). -/
def Obligations.DataUnderASystemStatusIsDiscarded : Prop :=
  ∀ (ds : List Data7) (b : Byte) (s : State), s.dec.runningStatus = some b → 0xF0 ≤ b.toNat →
    execAll (ds.map Instr.data) s =
      .next { s with decAnomalies := s.decAnomalies ++ List.replicate ds.length .systemData }

/-- R94 (its field assignment is D17): a data byte that does not complete the message is collected. -/
def Obligations.IncompleteMessageCollectsItsByte : Prop :=
  ∀ (d : Data7) (b : Byte) (s : State), s.dec.runningStatus = some b →
    0x80 ≤ b.toNat → b.toNat < 0xF0 →
    s.dec.collected.length + 1 ≠ s.dec.expectedCount.val →
    exec (.data d) s = .next { s with dec := { s.dec with collected := s.dec.collected ++ [d] } }

/-- R94, R96 to R99, R102 (D17): the second data byte of the five two-parameter families emits the event of
the cached status, clears `collected`, and changes nothing else. -/
def Obligations.SecondDataByteEmitsTheEvent : Prop :=
  ∀ (ch : Chan) (a b : Data7) (s : State), s.dec.collected = [a] → s.dec.expectedCount = 2 →
    (s.dec.runningStatus = some (statusSum 0x80 ch) →
      exec (.data b) s = .next { s with dec := { s.dec with collected := [] },
                                        evOut := s.evOut ++ [.noteOff ch a.toNat b.toNat] }) ∧
    (s.dec.runningStatus = some (statusSum 0x90 ch) →
      exec (.data b) s = .next { s with dec := { s.dec with collected := [] },
                                        evOut := s.evOut ++ [.noteOn ch a.toNat b.toNat] }) ∧
    (s.dec.runningStatus = some (statusSum 0xA0 ch) →
      exec (.data b) s = .next { s with dec := { s.dec with collected := [] },
                                        evOut := s.evOut ++ [.polyPressure ch a.toNat b.toNat] }) ∧
    (s.dec.runningStatus = some (statusSum 0xB0 ch) →
      exec (.data b) s = .next { s with dec := { s.dec with collected := [] },
                                        evOut := s.evOut ++ [.controlChange ch a.toNat b.toNat] }) ∧
    (s.dec.runningStatus = some (statusSum 0xE0 ch) →
      exec (.data b) s = .next
        { s with dec := { s.dec with collected := [] },
                 evOut := s.evOut ++ [.pitchBend ch ((a.toNat : Int) + 128 * b.toNat - 8192)] })

/-- R94, R100, R101 (D9, D17): the data byte of the two one-parameter families emits the event and leaves the
registers as they were, so a further one emits a further event. -/
def Obligations.OnlyDataByteEmitsTheEvent : Prop :=
  ∀ (ch : Chan) (a : Data7) (s : State), s.dec.collected = [] → s.dec.expectedCount = 1 →
    (s.dec.runningStatus = some (statusSum 0xC0 ch) →
      exec (.data a) s = .next { s with evOut := s.evOut ++ [.programChange ch a.toNat] }) ∧
    (s.dec.runningStatus = some (statusSum 0xD0 ch) →
      exec (.data a) s = .next { s with evOut := s.evOut ++ [.channelPressure ch a.toNat] })

/-- R96 to R102 as whole messages (D9, D17): from any state, status and data bytes emit the family's event, at
the last byte and not before, and end with the status still cached. (An AbandonedMessage that the status byte
records is a ghost, D19, log 8.) -/
def Obligations.WholeMessageEmitsAtItsLastByte : Prop :=
  ∀ (ch : Chan) (a b : Data7) (s : State),
    (exec (.noteOff ch) s = .next (s.cached (statusSum 0x80 ch) 2 [] []) ∧
      execAll [.noteOff ch, .data a] s =
        .next { s.cached (statusSum 0x80 ch) 2 [] [] with
                dec := ⟨some (statusSum 0x80 ch), s.dec.pendingStatus, [a], 2⟩ } ∧
      execAll [.noteOff ch, .data a, .data b] s =
        .next (s.cached (statusSum 0x80 ch) 2 [.noteOff ch a.toNat b.toNat] [])) ∧
    (exec (.noteOn ch) s = .next (s.cached (statusSum 0x90 ch) 2 [] []) ∧
      execAll [.noteOn ch, .data a] s =
        .next { s.cached (statusSum 0x90 ch) 2 [] [] with
                dec := ⟨some (statusSum 0x90 ch), s.dec.pendingStatus, [a], 2⟩ } ∧
      execAll [.noteOn ch, .data a, .data b] s =
        .next (s.cached (statusSum 0x90 ch) 2 [.noteOn ch a.toNat b.toNat] [])) ∧
    (exec (.polyPressure ch) s = .next (s.cached (statusSum 0xA0 ch) 2 [] []) ∧
      execAll [.polyPressure ch, .data a] s =
        .next { s.cached (statusSum 0xA0 ch) 2 [] [] with
                dec := ⟨some (statusSum 0xA0 ch), s.dec.pendingStatus, [a], 2⟩ } ∧
      execAll [.polyPressure ch, .data a, .data b] s =
        .next (s.cached (statusSum 0xA0 ch) 2 [.polyPressure ch a.toNat b.toNat] [])) ∧
    (exec (.controlChange ch) s = .next (s.cached (statusSum 0xB0 ch) 2 [] []) ∧
      execAll [.controlChange ch, .data a] s =
        .next { s.cached (statusSum 0xB0 ch) 2 [] [] with
                dec := ⟨some (statusSum 0xB0 ch), s.dec.pendingStatus, [a], 2⟩ } ∧
      execAll [.controlChange ch, .data a, .data b] s =
        .next (s.cached (statusSum 0xB0 ch) 2 [.controlChange ch a.toNat b.toNat] [])) ∧
    (exec (.programChange ch) s = .next (s.cached (statusSum 0xC0 ch) 1 [] []) ∧
      execAll [.programChange ch, .data a] s =
        .next (s.cached (statusSum 0xC0 ch) 1 [.programChange ch a.toNat] [])) ∧
    (exec (.channelPressure ch) s = .next (s.cached (statusSum 0xD0 ch) 1 [] []) ∧
      execAll [.channelPressure ch, .data a] s =
        .next (s.cached (statusSum 0xD0 ch) 1 [.channelPressure ch a.toNat] [])) ∧
    (exec (.pitchBend ch) s = .next (s.cached (statusSum 0xE0 ch) 2 [] []) ∧
      execAll [.pitchBend ch, .data a] s =
        .next { s.cached (statusSum 0xE0 ch) 2 [] [] with
                dec := ⟨some (statusSum 0xE0 ch), s.dec.pendingStatus, [a], 2⟩ } ∧
      execAll [.pitchBend ch, .data a, .data b] s =
        .next (s.cached (statusSum 0xE0 ch) 2
          [.pitchBend ch ((a.toNat : Int) + 128 * b.toNat - 8192)] []))

/-- Running status never runs out (R70, R94; D10): under a cached channel-voice status between messages, any
number of pairs (of single bytes, for the one-parameter families) emits that many events, in order, and
leaves the registers as they were. -/
def Obligations.RunningStatusNeverRunsOut : Prop :=
  (∀ (b : Byte) (f : Data7 → Data7 → MidiEvent) (pairs : List (Data7 × Data7)) (s : State),
    s.dec.runningStatus = some b → s.dec.collected = [] → s.dec.expectedCount = 2 →
    0x80 ≤ b.toNat → b.toNat < 0xF0 → (∀ x y, assemble b [x, y] = some (f x y)) →
    execAll (pairs.flatMap fun q => [.data q.1, .data q.2]) s =
      .next { s with evOut := s.evOut ++ pairs.map fun q => f q.1 q.2 }) ∧
  (∀ (b : Byte) (f : Data7 → MidiEvent) (ds : List Data7) (s : State),
    s.dec.runningStatus = some b → s.dec.collected = [] → s.dec.expectedCount = 1 →
    0x80 ≤ b.toNat → b.toNat < 0xF0 → (∀ x, assemble b [x] = some (f x)) →
    execAll (ds.map Instr.data) s = .next { s with evOut := s.evOut ++ ds.map f })

/-- R97 with its two source examples: from any state, a NoteOn status and any number of data pairs emit that many
`NoteOn` events, in order, a velocity of 0 included; a further single byte is collected; and each event
re-encodes to its status byte and its pair. (An AbandonedMessage that the status byte records is a ghost, D19,
log 8.) -/
def Obligations.NoteOnPairsDecodeAndReencode : Prop :=
  ∀ (ch : Chan) (pairs : List (Data7 × Data7)) (s : State),
    exec (.noteOn ch) s = .next (s.cached (statusSum 0x90 ch) 2 [] []) ∧
    execAll (.noteOn ch :: pairs.flatMap fun q => [.data q.1, .data q.2]) s =
      .next (s.cached (statusSum 0x90 ch) 2 (pairs.map fun q => .noteOn ch q.1.toNat q.2.toNat) []) ∧
    (∀ a : Data7, execAll (.noteOn ch :: (pairs.flatMap fun q => [.data q.1, .data q.2]) ++ [.data a]) s =
      .next { s.cached (statusSum 0x90 ch) 2 (pairs.map fun q => .noteOn ch q.1.toNat q.2.toNat) [] with
              dec := ⟨some (statusSum 0x90 ch), s.dec.pendingStatus, [a], 2⟩ }) ∧
    (∀ (a b : Data7) (t : State), exec (.encNoteOn ch a.toNat b.toNat) t =
      .next { t with wireOut := t.wireOut ++ [[statusSum 0x90 ch, dataByte a, dataByte b]] })

/-- R139 (the spec's decisions D13 and D14; log 3 for the premise): an exclusive block of any length emits nothing
and ends with 0xF7 cached, from any state. The recorded names are ghosts, and that AbandonedMessage stands before
UnsupportedStatus is the model's choice (D19, log 8). -/
def Obligations.ExclusiveBlockEmitsNothing : Prop :=
  ∀ (ds : List Data7) (s : State), s.params.rtTable[0] = none → s.params.rtTable[7] = none →
    execAll (.sysF0 :: ds.map Instr.data ++ [.sysF7]) s =
      .next (s.cached 0xF7#8 0 [] (.unsupportedStatus :: List.replicate ds.length .systemData
        ++ [.unsupportedStatus]))

/-- R138 (the spec's decisions D13 and D15): a system status byte of any kind inside or after a message of a
channel-voice family ends it: the data bytes that follow emit nothing, however many. The recorded names are ghosts, and that
AbandonedMessage stands before every other is the model's choice (D19, log 8). -/
def Obligations.SystemByteEndsTheMessageInProgress : Prop :=
  ∀ (b : Byte) (ds : List Data7) (s : State), 0xF0 ≤ b.toNat →
    ∃ out names, exec (decodeByte b) s = .next (s.cached b 0 out names) ∧
      execAll (decodeByte b :: ds.map Instr.data) s =
        .next (s.cached b 0 out (names ++ List.replicate ds.length .systemData)) ∧
      (∀ e ∈ out, ∃ k, e = .systemRealtime k)

/-- R201, R202 (D2, D24): the reset line in the middle of a message drops it, and data bytes are discarded
again until a status byte comes. The recorded names are ghosts (D19, log 8). -/
def Obligations.ResetMidMessageSeeksAgain : Prop :=
  ∀ (ds : List Data7) (rest : List InItem) (s : State),
    s.input = .rst :: (ds.map fun d => .word (.wire (dataByte d))) ++ rest →
    runSteps (ds.length + 1) s =
      .next { s with input := rest, dec := ⟨none, none, [], 0⟩,
                     decAnomalies := s.decAnomalies ++ List.replicate ds.length .orphanData }

/-! ### Frames, latency and anomalies -/

/-- What a decoder instruction leaves alone: the parameters, the input, the encoder's output and names, and
`pending_status` (R22, the spec's decision D11); it emits at most one event (R90), and a data byte never changes
`running_status` (R21, R104) or `expected_count` (R24, the spec's decision D10; log 9). -/
def Obligations.DecoderInstructionsLeaveTheRestAlone : Prop :=
  ∀ (i : Instr) (s t : State), i.isEncoder = false → exec i s = .next t →
    t.params = s.params ∧ t.input = s.input ∧ t.wireOut = s.wireOut ∧
    t.encAnomalies = s.encAnomalies ∧ t.dec.pendingStatus = s.dec.pendingStatus ∧
    (t.evOut = s.evOut ∨ ∃ e, t.evOut = s.evOut ++ [e]) ∧
    (∃ names, t.decAnomalies = s.decAnomalies ++ names) ∧
    (∀ d, i = .data d → t.dec.runningStatus = s.dec.runningStatus ∧
      t.dec.expectedCount = s.dec.expectedCount)

/-- R212: an event is emitted at the byte that completes its message and at no other byte. -/
def Obligations.EventComesAtTheCompletingByte : Prop :=
  ∀ (b : Byte) (s : State), s.dec.Inv →
    ∃ t, exec (decodeByte b) s = .next t ∧
      ((∃ e, t.evOut = s.evOut ++ [e]) ↔
        (∃ k, rt s.params b = some k) ∨
        (b.toNat < 0x80 ∧ ∃ st, s.dec.runningStatus = some st ∧ isChannelVoice st = true ∧
          s.dec.collected.length + 1 = (dlen st).val)) ∧
      (t.evOut = s.evOut ∨ ∃ e, t.evOut = s.evOut ++ [e])

/-- R181 to R184 (D13, D19; log 8): which names a byte gives, exactly. -/
def Obligations.AnomalyNamesOfAByte : Prop :=
  ∀ (b : Byte) (s : State),
    ∃ t names, exec (decodeByte b) s = .next t ∧ t.decAnomalies = s.decAnomalies ++ names ∧
      t.encAnomalies = s.encAnomalies ∧
      (.unsupportedStatus ∈ names ↔ 0xF0 ≤ b.toNat ∧ rt s.params b = none) ∧
      (.orphanData ∈ names ↔ b.toNat < 0x80 ∧ s.dec.runningStatus = none) ∧
      (.systemData ∈ names ↔
        b.toNat < 0x80 ∧ ∃ st, s.dec.runningStatus = some st ∧ st.toNat / 16 % 16 = 0xF) ∧
      (.abandonedMessage ∈ names ↔ 0x80 ≤ b.toNat ∧ s.dec.collected ≠ []) ∧
      (.unsupportedEvent ∉ names)

/-- R188 (D19; log 8): the names are ghosts. Whatever the two logs hold, an instruction adds the same names to
them and gives the same registers, events and bytes. -/
def Obligations.AnomalyNamesAffectNothing : Prop :=
  ∀ (i : Instr) (s : State),
    ∃ (S : DecoderState) (ev : List MidiEvent) (g : List (List Byte)) (n m : List Anomaly),
      ∀ xs ys, exec i { s with decAnomalies := xs, encAnomalies := ys } =
        .next { s with dec := S, evOut := ev, wireOut := g, decAnomalies := xs ++ n,
                       encAnomalies := ys ++ m }

/-! ### The encoder -/

/-- R27, R150: what an encoder instruction gives depends on the instruction alone, and it touches nothing but
its output: every register of the decoder, the parameters, the input and the events are unchanged. The
result is nothing or two or three bytes, a status byte and data bytes. -/
def Obligations.EncoderIsTotalAndStateless : Prop :=
  ∀ i : Instr, i.isEncoder = true →
    ∃ (r : Option (List Byte)) (names : List Anomaly),
      (∀ g, r = some g → GroupOk g ∧ (g.length = 2 ∨ g.length = 3)) ∧
      ∀ s : State, exec i s = .next { s with wireOut := s.wireOut ++ r.toList,
                                             encAnomalies := s.encAnomalies ++ names }

/-- R153 to R156: the four three-byte families with two parameters, their port kinds and their bytes. -/
def Obligations.EncodesTwoParametersInThreeBytes : Prop :=
  (∀ (p : Params) (e : PortEvent), e.misfit p = none →
    (e.kind = 0x8 → decode p (.event e) = .ok (.encNoteOff e.chan e.a e.b)) ∧
    (e.kind = 0x9 → decode p (.event e) = .ok (.encNoteOn e.chan e.a e.b)) ∧
    (e.kind = 0xA → decode p (.event e) = .ok (.encPolyPressure e.chan e.a e.b)) ∧
    (e.kind = 0xB → decode p (.event e) = .ok (.encControlChange e.chan e.a e.b))) ∧
  (∀ (ch : Chan) (x y : Nat) (s : State),
    exec (.encNoteOff ch x y) s = .next { s with wireOut := s.wireOut ++
      [[BitVec.ofNat 8 (0x80 + ch.toNat), BitVec.ofNat 8 (x &&& 0x7F), BitVec.ofNat 8 (y &&& 0x7F)]] } ∧
    exec (.encNoteOn ch x y) s = .next { s with wireOut := s.wireOut ++
      [[BitVec.ofNat 8 (0x90 + ch.toNat), BitVec.ofNat 8 (x &&& 0x7F), BitVec.ofNat 8 (y &&& 0x7F)]] } ∧
    exec (.encPolyPressure ch x y) s = .next { s with wireOut := s.wireOut ++
      [[BitVec.ofNat 8 (0xA0 + ch.toNat), BitVec.ofNat 8 (x &&& 0x7F), BitVec.ofNat 8 (y &&& 0x7F)]] } ∧
    exec (.encControlChange ch x y) s = .next { s with wireOut := s.wireOut ++
      [[BitVec.ofNat 8 (0xB0 + ch.toNat), BitVec.ofNat 8 (x &&& 0x7F), BitVec.ofNat 8 (y &&& 0x7F)]] })

/-- R157, R158: the two families with one parameter give exactly two bytes; on the ports `b` is ignored and
`enc_b2` is 0x00. -/
def Obligations.EncodesOneParameterInTwoBytes : Prop :=
  (∀ (p : Params) (e : PortEvent), e.misfit p = none →
    (e.kind = 0xC → decode p (.event e) = .ok (.encProgramChange e.chan e.a)) ∧
    (e.kind = 0xD → decode p (.event e) = .ok (.encChannelPressure e.chan e.a))) ∧
  (∀ (ch : Chan) (x : Nat) (s : State),
    exec (.encProgramChange ch x) s = .next { s with wireOut := s.wireOut ++
      [[BitVec.ofNat 8 (0xC0 + ch.toNat), BitVec.ofNat 8 (x &&& 0x7F)]] } ∧
    exec (.encChannelPressure ch x) s = .next { s with wireOut := s.wireOut ++
      [[BitVec.ofNat 8 (0xD0 + ch.toNat), BitVec.ofNat 8 (x &&& 0x7F)]] }) ∧
  (∀ (dw bw : Nat) (k c : BitVec 4) (a b b' : BitVec dw) (bend : BitVec bw), k = 0xC ∨ k = 0xD →
    (encPins ⟨true, ⟨k, c, a, b, bend⟩⟩).len = 2 ∧ (encPins ⟨true, ⟨k, c, a, b, bend⟩⟩).b2 = 0 ∧
    encPins ⟨true, ⟨k, c, a, b, bend⟩⟩ = encPins ⟨true, ⟨k, c, a, b', bend⟩⟩)

/-- R159 (D18 out of range): the bytes of a pitch bend are the two halves of (value + 8192) mod 16384, low half
first; in range nothing is lost. -/
def Obligations.EncodesPitchBendBiased : Prop :=
  ∀ (ch : Chan) (v : Int) (s : State),
    ∃ u : Nat, (u : Int) = (v + 8192) % 16384 ∧
      (-8192 ≤ v → v ≤ 8191 → (u : Int) = v + 8192) ∧
      exec (.encPitchBend ch v) s = .next { s with wireOut := s.wireOut ++
        [[BitVec.ofNat 8 (0xE0 + ch.toNat), BitVec.ofNat 8 (u % 128), BitVec.ofNat 8 (u / 128)]] }

/-- R69: the pitch-bend operand, both ways. Decoding gives the source's expression and lies in -8192..8191;
encoding a value of that range gives the two halves of value + 8192; the two are inverse; centre is 0x00, 0x40. -/
def Obligations.PitchBendOperandBothWays : Prop :=
  (∀ (ch : Chan) (a b : Data7) (s : State), s.dec.runningStatus = some (statusSum 0xE0 ch) →
    s.dec.collected = [a] → s.dec.expectedCount = 2 →
    ∃ v : Int, v = ((a.toNat &&& 0x7F : Nat) : Int) + (((b.toNat &&& 0x7F) <<< 7 : Nat) : Int) - 8192 ∧
      -8192 ≤ v ∧ v ≤ 8191 ∧
      exec (.data b) s = .next { s with dec := { s.dec with collected := [] },
                                        evOut := s.evOut ++ [.pitchBend ch v] } ∧
      ∀ t : State, exec (.encPitchBend ch v) t =
        .next { t with wireOut := t.wireOut ++ [[statusSum 0xE0 ch, dataByte a, dataByte b]] }) ∧
  (∀ (ch : Chan) (v : Int) (s : State), -8192 ≤ v → v ≤ 8191 →
    ∃ u a b : Nat, (u : Int) = v + 8192 ∧ u ≤ 16383 ∧ a < 128 ∧ b < 128 ∧ u = a + 128 * b ∧
      exec (.encPitchBend ch v) s = .next { s with wireOut := s.wireOut ++
        [[statusSum 0xE0 ch, BitVec.ofNat 8 a, BitVec.ofNat 8 b]] } ∧
      execAll [.pitchBend ch, .data (BitVec.ofNat 7 a), .data (BitVec.ofNat 7 b)] s =
        .next (s.cached (statusSum 0xE0 ch) 2 [.pitchBend ch v] [])) ∧
  (∀ (ch : Chan) (s : State), exec (.encPitchBend ch 0) s = .next { s with wireOut := s.wireOut ++
    [[statusSum 0xE0 ch, 0x00#8, 0x40#8]] })

/-- R160, R161, R185: no bytes for a system real-time event of any kind or for any other event, on the ports
`enc_len = 0`, and nothing else happens. That `Other` is the ninth case and has the port kinds below 8 is the
spec's choice (D6, D23), and the recorded name UnsupportedEvent is a ghost (D19, log 8). -/
def Obligations.UnsupportedEventsGiveNoBytes : Prop :=
  (∀ (sub : BitVec 4) (s : State), exec (.encSystemRealtime sub) s =
    .next { s with encAnomalies := s.encAnomalies ++ [.unsupportedEvent] }) ∧
  (∀ (k : BitVec 3) (s : State), exec (.encOther k) s =
    .next { s with encAnomalies := s.encAnomalies ++ [.unsupportedEvent] }) ∧
  (∀ k : RtKind, encodeEvent (.systemRealtime k) = none) ∧ encodeEvent .other = none ∧
  (∀ (dw bw : Nat) (i : EncIn dw bw), i.ev.kind = 0xF ∨ i.ev.kind.toNat < 8 → (encPins i).len = 0)

/-- R152: the masking law. Every data byte is its parameter modulo 128, bit 7 clear, and a parameter in 0..127
goes through unchanged; the data bytes of a pitch bend have bit 7 clear too, and in range they are the source's
masked expressions (out of range is D18 and stands in `Obligations.EncodesPitchBendBiased`). -/
def Obligations.DataBytesAreMaskedParameters : Prop :=
  ∀ (ch : Chan) (m n : Nat) (v : Int) (s : State),
    ∃ x y z w : Byte,
      x.toNat = m % 128 ∧ y.toNat = n % 128 ∧ (m < 128 → x.toNat = m) ∧ (n < 128 → y.toNat = n) ∧
      z.toNat < 128 ∧ w.toNat < 128 ∧
      (-8192 ≤ v → v ≤ 8191 →
        (z.toNat : Int) = (v + 8192) % 128 ∧ (w.toNat : Int) = ((v + 8192) >>> (7 : Nat)) % 128) ∧
      exec (.encNoteOff ch m n) s = .next { s with wireOut := s.wireOut ++ [[0x8#4 ++ ch, x, y]] } ∧
      exec (.encNoteOn ch m n) s = .next { s with wireOut := s.wireOut ++ [[0x9#4 ++ ch, x, y]] } ∧
      exec (.encPolyPressure ch m n) s = .next { s with wireOut := s.wireOut ++ [[0xA#4 ++ ch, x, y]] } ∧
      exec (.encControlChange ch m n) s = .next { s with wireOut := s.wireOut ++ [[0xB#4 ++ ch, x, y]] } ∧
      exec (.encProgramChange ch m) s = .next { s with wireOut := s.wireOut ++ [[0xC#4 ++ ch, x]] } ∧
      exec (.encChannelPressure ch m) s = .next { s with wireOut := s.wireOut ++ [[0xD#4 ++ ch, x]] } ∧
      exec (.encPitchBend ch v) s = .next { s with wireOut := s.wireOut ++ [[0xE#4 ++ ch, z, w]] }

/-! ### The normative functions -/

/-- The meanings and `feed` (R90 to R95, R120, R137; the completion test is R94's) are one machine: on every byte
and in every state, reachable or not (log 11: outside R25 the informative listing of
40_decoder_channel_voice.md section 4 differs from R94, which governs). The recorded names are ghosts (log 8). -/
def Obligations.ExecOfAByteIsFeed : Prop :=
  ∀ (b : Byte) (s : State), ∃ names,
    exec (decodeByte b) s = .next
      { s with dec := (feed s.params s.dec b).1,
               evOut := s.evOut ++ (feed s.params s.dec b).2.toList,
               decAnomalies := s.decAnomalies ++ names }

/-- The meanings and `encodeEvent` (the table of R77) are one machine, on every port event (D23; log 14). The recorded name
UnsupportedEvent is a ghost (D19, log 8). -/
def Obligations.ExecOfAnEventIsEncode : Prop :=
  ∀ (e : PortEvent) (s : State), ∃ names,
    exec (decodeEvent e) s = .next
      { s with wireOut := s.wireOut ++ (encodeEvent (portToEvent s.params e)).toList,
               encAnomalies := s.encAnomalies ++ names } ∧
    (encodeEvent (portToEvent s.params e) = none ↔ names = [.unsupportedEvent]) ∧
    (encodeEvent (portToEvent s.params e) ≠ none ↔ names = [])

/-- A whole run of both agents, interleaved in any way (R49, R50, R214; log 4): the registers and the events
are those of `feed` folded over the bytes alone, and the byte groups are those of `encode` over the events
alone, each in order. -/
def Obligations.RunIsFeedAndEncodeSideBySide : Prop :=
  ∀ s : State, .rst ∉ s.input → InputFits s.params s.input →
    ∃ t, runSteps s.input.length s = .next t ∧ t.input = [] ∧ t.params = s.params ∧
      t.dec = feedState s.params s.dec (inputBytes s.input) ∧
      t.evOut = s.evOut ++ feedEvents s.params s.dec (inputBytes s.input) ∧
      t.wireOut = s.wireOut ++
        ((inputEvents s.input).map fun e => encodeEvent (portToEvent s.params e)).reduceOption

/-- R49: a decoder step and an encoder call commute, and any interleaving of the same two streams gives the
same decoder outputs and the same encoder outputs: as many byte groups as there are supported events, and the
events decodable from the bytes. -/
def Obligations.DecoderAndEncoderCommute : Prop :=
  (∀ (i j : Instr) (s : State), i.isEncoder = false → j.isEncoder = true →
    ∃ t, execAll [i, j] s = .next t ∧ execAll [j, i] s = .next t) ∧
  (∀ (s : State) (l l' : List InItem), .rst ∉ l → .rst ∉ l' →
    InputFits s.params l → inputBytes l = inputBytes l' → inputEvents l = inputEvents l' →
    ∃ t, runSteps l.length { s with input := l } = .next t ∧
      runSteps l'.length { s with input := l' } = .next t ∧
      t.evOut = s.evOut ++ feedEvents s.params s.dec (inputBytes l) ∧
      t.wireOut.length = s.wireOut.length +
        ((inputEvents l).filter fun e => (encodeEvent (portToEvent s.params e)).isSome).length)

/-- R163 (a), from wire to event to wire, through the machine: a channel-voice message in full form, fed from
any state, emits exactly one event, at its last byte; and that event, given to the encoder on the port,
gives exactly those bytes. -/
def Obligations.WireToEventToWire : Prop :=
  ∀ (s : State) (b : Byte) (ds : List Data7), s.params.Legal →
    0x80 ≤ b.toNat → b.toNat < 0xF0 → ds.length = (dlen b).val →
    ∃ (e : MidiEvent) (i : Instr) (t t' t'' : State),
      execAll (decodeByte b :: ds.dropLast.map Instr.data) s = .next t ∧ t.evOut = s.evOut ∧
      execAll (decodeByte b :: ds.map Instr.data) s = .next t' ∧ t'.evOut = s.evOut ++ [e] ∧
      decode s.params (.event (eventToPort s.params e)) = .ok i ∧
      exec i t' = .next t'' ∧ t''.wireOut = s.wireOut ++ [b :: ds.map dataByte]

/-- R163 (b), (c), from event to wire to event: the bytes of a supported event, fed from any state, emit
exactly the event with its parameters reduced, at the last byte; an event in range comes back unchanged. -/
def Obligations.EventToWireToEvent : Prop :=
  ∀ (p : Params) (S : DecoderState) (e : MidiEvent) (g : List Byte), encodeEvent e = some g →
    (∃ S', feedTrace p S g = (S', List.replicate (g.length - 1) none ++ [some e.reduced])) ∧
    (e.InRange → e.reduced = e)

/-! ### The port level -/

/-- R56 (on the ports of D2 to D5 and D24): a sequence of clock cycles shows exactly the events the
transaction-level machine emits on the same bytes and resets, in order, and both end in the same decoder state.
(What the event fields show without an event is left to R55: D8 asks for no claim about it.) -/
def Obligations.DecoderPortsShowTheEvents : Prop :=
  ∀ (s : State) (is : List DecIn), s.input = is.flatMap DecIn.items →
    ∃ (t : State) (evs : List MidiEvent),
      runSteps s.input.length s = .next t ∧ t.evOut = s.evOut ++ evs ∧
      t.dec = (decCycles s.params s.dec is).1 ∧
      (decCycles s.params s.dec is).2.filter (fun o => o.valid) =
        evs.map (fun e => DecOut.show_ s.params (some e))

/-- R55, R190, R201 (D24, U7): while `rst` is high the byte and the state do not matter and no event is shown;
without a valid byte the byte does not matter and the state stays. -/
def Obligations.ResetCycleWinsAndIdleCycleKeeps : Prop :=
  ∀ (p : Params) (S : DecoderState) (v : Bool) (b : Byte),
    (decCycle p ⟨true, v, b⟩ S).1 = ⟨none, none, [], 0⟩ ∧ (decCycle p ⟨true, v, b⟩ S).2.valid = false ∧
    (decCycle p ⟨false, false, b⟩ S).1 = S ∧ (decCycle p ⟨false, false, b⟩ S).2.valid = false

/-- R75, R165 against R77 (D5, D6, D8): the encoder as bits of its pins is `encode` of the event on them, for
every legal width; with `enc_ev_valid = 0` it shows nothing. -/
def Obligations.EncoderPinsAreEncode : Prop :=
  ∀ (p : Params) (i : EncIn p.dataW p.bendW), p.Legal →
    encPins i = if i.valid then EncOut.ofResult (encodeEvent (portToEvent p i.ev.toPort))
      else ⟨0, 0, 0, 0⟩

/-- R72, R73 (D6): an event the decoder emits fits the port, `{kind, chan}` is the status byte that selected it,
the bits hold the numbers, and the port fields stand for that event. -/
def Obligations.EmittedEventOnThePort : Prop :=
  ∀ (p : Params) (S : DecoderState) (b : Byte) (e : MidiEvent), p.Legal → S.Inv →
    (feed p S b).2 = some e →
    (eventToPort p e).misfit p = none ∧
    some ((eventToPort p e).kind ++ (eventToPort p e).chan) =
      (if 0x80 ≤ b.toNat then some b else S.runningStatus) ∧
    (EventPins.ofPort p.dataW p.bendW (eventToPort p e)).toPort = eventToPort p e ∧
    portToEvent p (eventToPort p e) = e

/-- R34 (D6): the 29-bit layout holds every state between steps, and reset is all bits 0. -/
def Obligations.StorageLayoutHoldsTheState : Prop :=
  Layout.pack DecoderState.reset = ⟨0, 0, 0, 0, 0, 0, 0⟩ ∧
  ∀ S : DecoderState, S.Inv →
    (Layout.pack S).unpack = S ∧ (Layout.pack S).psValid = 0 ∧ (Layout.pack S).ps = 0 ∧
    ((Layout.pack S).rsValid = 0 → (Layout.pack S).rs = 0) ∧
    ((Layout.pack S).colCnt = 0 → (Layout.pack S).col0 = 0)
end

