-- ==== Sys2Proof/Laws/Bits.lean ====
section
/-! SUPPORT. The bit fields of bytes: what the accessors of Decode.lean give on the bytes that its builders
make, and the concatenated form of each operand against the source's arithmetic form. Finite facts are
decided; facts about every number go through `toNat`. -/

namespace Sys2Proof

@[simp] theorem isStatus_dataByte (d : Data7) : isStatus (dataByte d) = false := by
  revert d; decide

@[simp] theorem dataValue_dataByte (d : Data7) : dataValue (dataByte d) = d := by
  revert d; decide

theorem dataByte_dataValue {b : Byte} (h : isStatus b = false) : dataByte (dataValue b) = b := by
  revert b; decide

theorem isStatus_iff (b : Byte) : isStatus b = true ↔ 0x80 ≤ b.toNat := by
  revert b; decide

theorem not_isStatus_iff (b : Byte) : isStatus b = false ↔ b.toNat < 0x80 := by
  revert b; decide

theorem opc_toNat (b : Byte) : (opc b).toNat = b.toNat / 16 := by
  revert b; decide

theorem statusByte_opc_chan (b : Byte) : statusByte (opc b) (chan b) = b := by
  revert b; decide

@[simp] theorem opc_statusByte (nib : Nibble) (ch : Chan) : opc (statusByte nib ch) = nib := by
  revert nib ch; decide

@[simp] theorem chan_statusByte (nib : Nibble) (ch : Chan) : chan (statusByte nib ch) = ch := by
  revert nib ch; decide

/-- A data byte decodes to the DATA instruction with its value (R60, R62). -/
@[simp] theorem decodeByte_dataByte (d : Data7) : decodeByte (dataByte d) = .data d := by
  simp [decodeByte]

/-- A byte with bit 7 clear decodes to the DATA instruction (R60). -/
theorem decodeByte_of_data {b : Byte} (h : isStatus b = false) :
    decodeByte b = .data (dataValue b) := by
  simp [decodeByte, h]

/-- A data byte is its value (R68). -/
theorem dataByte_toNat (d : Data7) : (dataByte d).toNat = d.toNat := by
  revert d; decide

namespace Machine

/-- `p & 0x7F` is `p mod 128` (R152). -/
theorem maskedByte_toNat (n : Nat) : (maskedByte n).toNat = n % 128 := by
  have h : n &&& 127 = n % 2 ^ 7 := Nat.and_two_pow_sub_one_eq_mod n 7
  simp only [maskedByte, BitVec.toNat_ofNat, h]; omega

/-- `{0, p[6:0]}` and `p & 0x7F` are one byte (R68). -/
theorem dataByte_mask7 (n : Nat) : dataByte (mask7 n) = maskedByte n := by
  apply BitVec.eq_of_toNat_eq
  rw [dataByte_toNat, maskedByte_toNat]
  simp [mask7]

/-- Opcode constant plus channel is the concatenation `{opcode nibble, channel}` (R78, R151). -/
theorem statusByte_eq_sum (ch : Chan) :
    statusByte 0x8#4 ch = statusSum 0x80 ch ∧ statusByte 0x9#4 ch = statusSum 0x90 ch ∧
    statusByte 0xA#4 ch = statusSum 0xA0 ch ∧ statusByte 0xB#4 ch = statusSum 0xB0 ch ∧
    statusByte 0xC#4 ch = statusSum 0xC0 ch ∧ statusByte 0xD#4 ch = statusSum 0xD0 ch ∧
    statusByte 0xE#4 ch = statusSum 0xE0 ch := by
  revert ch; decide

/-- The biased value as a number (R69, R159). -/
theorem biased14_toNat (v : Int) : ((biased14 v).toNat : Int) = (v + 8192) % 16384 := by
  simp only [biased14, BitVec.toNat_ofInt]
  omega

/-- The low half of a biased value is the source's `(value+8192)&0x7F` (R69, R159). -/
theorem dataByte_low7 (v : Int) : dataByte (low7 (biased14 v)) = bendByte1 v := by
  apply BitVec.eq_of_toNat_eq
  have h := biased14_toNat v
  simp only [dataByte_toNat, low7, bendByte1, BitVec.extractLsb'_toNat, BitVec.toNat_ofNat]
  omega

/-- The high half of a biased value is the source's `((value+8192)>>7)&0x7F` (R69, R159). -/
theorem dataByte_high7 (v : Int) : dataByte (high7 (biased14 v)) = bendByte2 v := by
  apply BitVec.eq_of_toNat_eq
  have h := biased14_toNat v
  have h2 : (biased14 v).toNat < 16384 := (biased14 v).isLt
  simp only [dataByte_toNat, high7, bendByte2, BitVec.extractLsb'_toNat, BitVec.toNat_ofNat,
    Int.shiftRight_eq_div_pow, Nat.shiftRight_eq_div_pow]
  omega

/-- The assembled value, without shifts (R69, R102). -/
theorem bendValue_eq (a b : Data7) : bendValue a b = (a.toNat : Int) + 128 * b.toNat - 8192 := by
  simp only [bendValue, Int.shiftLeft_eq]
  omega

end Machine

end Sys2Proof
end

