-- ==== Sys2Proof/Laws/State.lean ====
section
/-! SUPPORT. One lemma per field per update of State and of DecoderState, so that no later proof unfolds a
record update. -/

namespace Sys2Proof.Machine

variable (s : State) (S : DecoderState) (f : FeedOut) (r : EncodeOut) (b : Byte) (n w : Nat)

/-! ### A decoder step lands -/

@[simp] theorem State.putFeed_params : (s.putFeed f).params = s.params := rfl
@[simp] theorem State.putFeed_dec : (s.putFeed f).dec = f.state := rfl
@[simp] theorem State.putFeed_input : (s.putFeed f).input = s.input := rfl
@[simp] theorem State.putFeed_evOut : (s.putFeed f).evOut = s.evOut ++ f.out.toList := rfl
@[simp] theorem State.putFeed_wireOut : (s.putFeed f).wireOut = s.wireOut := rfl
@[simp] theorem State.putFeed_decAnomalies :
    (s.putFeed f).decAnomalies = s.decAnomalies ++ f.anomalies := rfl
@[simp] theorem State.putFeed_encAnomalies : (s.putFeed f).encAnomalies = s.encAnomalies := rfl

/-! ### An encoder call lands -/

@[simp] theorem State.putEncode_params : (s.putEncode r).params = s.params := rfl
@[simp] theorem State.putEncode_dec : (s.putEncode r).dec = s.dec := rfl
@[simp] theorem State.putEncode_input : (s.putEncode r).input = s.input := rfl
@[simp] theorem State.putEncode_evOut : (s.putEncode r).evOut = s.evOut := rfl
@[simp] theorem State.putEncode_wireOut :
    (s.putEncode r).wireOut = s.wireOut ++ r.bytes.toList := rfl
@[simp] theorem State.putEncode_decAnomalies : (s.putEncode r).decAnomalies = s.decAnomalies := rfl
@[simp] theorem State.putEncode_encAnomalies :
    (s.putEncode r).encAnomalies = s.encAnomalies ++ r.anomalies := rfl

/-! ### The reset line -/

@[simp] theorem State.applyReset_params : s.applyReset.params = s.params := rfl
@[simp] theorem State.applyReset_dec : s.applyReset.dec = DecoderState.reset := rfl
@[simp] theorem State.applyReset_input : s.applyReset.input = s.input := rfl
@[simp] theorem State.applyReset_evOut : s.applyReset.evOut = s.evOut := rfl
@[simp] theorem State.applyReset_wireOut : s.applyReset.wireOut = s.wireOut := rfl
@[simp] theorem State.applyReset_decAnomalies : s.applyReset.decAnomalies = s.decAnomalies := rfl
@[simp] theorem State.applyReset_encAnomalies : s.applyReset.encAnomalies = s.encAnomalies := rfl

/-! ### A status byte is cached -/

@[simp] theorem DecoderState.cache_runningStatus : (S.cache b).runningStatus = some b := rfl
@[simp] theorem DecoderState.cache_pendingStatus : (S.cache b).pendingStatus = S.pendingStatus := rfl
@[simp] theorem DecoderState.cache_collected : (S.cache b).collected = [] := rfl
@[simp] theorem DecoderState.cache_expectedCount : (S.cache b).expectedCount = dlen b := rfl

/-! ### A word is placed -/

@[simp] theorem State.placeTableWord_params : (s.placeTableWord n w).params = s.params := rfl
@[simp] theorem State.placeTableWord_dec : (s.placeTableWord n w).dec = s.dec := rfl
@[simp] theorem State.placeTableWord_input :
    (s.placeTableWord n w).input = .word (tableWord n w) :: s.input := rfl
@[simp] theorem State.placeTableWord_evOut : (s.placeTableWord n w).evOut = s.evOut := rfl
@[simp] theorem State.placeTableWord_wireOut : (s.placeTableWord n w).wireOut = s.wireOut := rfl

end Sys2Proof.Machine
end

