-- ==== Sys2Proof/Laws/Ops.lean ====
section
/-! SUPPORT. One lemma per shared operation that says once everything it can do; the inversions of exec and of
step that later proofs cite instead of unfolding; and the equations of the run functions. -/

namespace Sys2Proof.Machine

/-! ### Steps of the decoder -/

/-- `State.abandoned` in the words of R184. -/
theorem DecoderState.abandoned_eq (S : DecoderState) :
    S.abandoned = if S.collected = [] then [] else [.abandonedMessage] := by
  simp [DecoderState.abandoned, List.isEmpty_iff]

/-- The three cases of a data byte (R93), each with all it does. -/
theorem dataStep_cases (d : Data7) (S : DecoderState) :
    (S.runningStatus = none ∧ dataStep d S = ⟨S, none, [.orphanData]⟩) ∨
    (∃ s, S.runningStatus = some s ∧ opc s = 0xF#4 ∧ dataStep d S = ⟨S, none, [.systemData]⟩) ∨
    (∃ s, S.runningStatus = some s ∧ opc s ≠ 0xF#4 ∧ dataStep d S = appendStep s d S) := by
  unfold dataStep
  cases h : S.runningStatus with
  | none => exact .inl ⟨rfl, rfl⟩
  | some s =>
    by_cases hs : opc s = 0xF#4
    · exact .inr (.inl ⟨s, rfl, hs, by simp [hs]⟩)
    · exact .inr (.inr ⟨s, rfl, hs, by simp [hs]⟩)

/-- The two cases of a byte that is collected (R94). -/
theorem appendStep_cases (s : Byte) (d : Data7) (S : DecoderState) :
    (S.collected.length + 1 = S.expectedCount.val ∧
      appendStep s d S = ⟨{ S with collected := [] }, assemble s (S.collected ++ [d]), []⟩) ∨
    (S.collected.length + 1 ≠ S.expectedCount.val ∧
      appendStep s d S = ⟨{ S with collected := S.collected ++ [d] }, none, []⟩) := by
  by_cases h : S.collected.length + 1 = S.expectedCount.val
  · exact .inl ⟨h, by simp [appendStep, h]⟩
  · exact .inr ⟨h, by simp [appendStep, h]⟩

/-- The two cases of a system status byte (R120). -/
theorem systemStatusStep_cases (p : Params) (b : Byte) (S : DecoderState) :
    (∃ k, rt p b = some k ∧
      systemStatusStep p b S = ⟨S.cache b, some (.systemRealtime k), S.abandoned⟩) ∨
    (rt p b = none ∧
      systemStatusStep p b S = ⟨S.cache b, none, S.abandoned ++ [.unsupportedStatus]⟩) := by
  unfold systemStatusStep
  cases h : rt p b with
  | none => exact .inr ⟨rfl, rfl⟩
  | some k => exact .inl ⟨k, rfl, rfl⟩

/-! ### Inversion of exec -/

/-- What a decoder instruction is: a channel-voice status byte, a system status byte, or a data byte. -/
theorem exec_decoder_cases {i : Instr} (h : i.isEncoder = false) (s : State) :
    (∃ b, isStatus b = true ∧ opc b ≠ 0xF#4 ∧ (∀ d, i ≠ .data d) ∧
      exec i s = .next (s.putFeed (channelStatusStep b s.dec))) ∨
    (∃ b, isStatus b = true ∧ opc b = 0xF#4 ∧ (∀ d, i ≠ .data d) ∧
      exec i s = .next (s.putFeed (systemStatusStep s.params b s.dec))) ∨
    (∃ d, i = .data d ∧ exec i s = .next (s.putFeed (dataStep d s.dec))) := by
  have st : ∀ (nib : Nibble) (ch : Chan), nib.getLsbD 3 = true →
      isStatus (statusByte nib ch) = true := by decide
  cases i <;> simp only [Instr.isEncoder, Bool.true_eq_false] at h
  case data d => exact .inr (.inr ⟨d, rfl, rfl⟩)
  case noteOff ch => exact .inl ⟨_, st _ ch (by decide), by simp, by simp, rfl⟩
  case noteOn ch => exact .inl ⟨_, st _ ch (by decide), by simp, by simp, rfl⟩
  case polyPressure ch => exact .inl ⟨_, st _ ch (by decide), by simp, by simp, rfl⟩
  case controlChange ch => exact .inl ⟨_, st _ ch (by decide), by simp, by simp, rfl⟩
  case programChange ch => exact .inl ⟨_, st _ ch (by decide), by simp, by simp, rfl⟩
  case channelPressure ch => exact .inl ⟨_, st _ ch (by decide), by simp, by simp, rfl⟩
  case pitchBend ch => exact .inl ⟨_, st _ ch (by decide), by simp, by simp, rfl⟩
  all_goals exact .inr (.inl ⟨_, by decide, by decide, by simp, rfl⟩)

/-- What an encoder instruction gives: one result, the same in every state, of three bytes, of two, or
none (R27, R150). -/
theorem exec_encoder_cases {i : Instr} (h : i.isEncoder = true) :
    ∃ r : EncodeOut, (∀ s, exec i s = .next (s.putEncode r)) ∧
      ((∃ nib ch x y, nib.getLsbD 3 = true ∧ r = encodeThree nib ch x y) ∨
        (∃ nib ch x, nib.getLsbD 3 = true ∧ r = encodeTwo nib ch x) ∨ r = encodeNothing) := by
  cases i <;> simp only [Instr.isEncoder, Bool.false_eq_true] at h
  case encNoteOff => exact ⟨_, fun _ => rfl, .inl ⟨_, _, _, _, by decide, rfl⟩⟩
  case encNoteOn => exact ⟨_, fun _ => rfl, .inl ⟨_, _, _, _, by decide, rfl⟩⟩
  case encPolyPressure => exact ⟨_, fun _ => rfl, .inl ⟨_, _, _, _, by decide, rfl⟩⟩
  case encControlChange => exact ⟨_, fun _ => rfl, .inl ⟨_, _, _, _, by decide, rfl⟩⟩
  case encPitchBend => exact ⟨_, fun _ => rfl, .inl ⟨_, _, _, _, by decide, rfl⟩⟩
  case encProgramChange => exact ⟨_, fun _ => rfl, .inr (.inl ⟨_, _, _, by decide, rfl⟩)⟩
  case encChannelPressure => exact ⟨_, fun _ => rfl, .inr (.inl ⟨_, _, _, by decide, rfl⟩)⟩
  case encSystemRealtime => exact ⟨_, fun _ => rfl, .inr (.inr rfl)⟩
  case encOther => exact ⟨_, fun _ => rfl, .inr (.inr rfl)⟩

/-! ### Decoded bytes as steps -/

/-- The status bytes 0x80..0xEF, whatever constructor they decode to, are one shared step (R92). -/
theorem exec_decodeByte_channelStatus {b : Byte} (h : isStatus b = true) (hf : opc b ≠ 0xF#4)
    (s : State) : exec (decodeByte b) s = .next (s.putFeed (channelStatusStep b s.dec)) := by
  have key : ∀ nib : Nibble, ∀ ch : Chan, isStatus (statusByte nib ch) = true → nib ≠ 0xF#4 →
      exec (decodeStatus nib ch) s =
        .next (s.putFeed (channelStatusStep (statusByte nib ch) s.dec)) := by
    intro nib ch h1 h2
    have h3 : nib = 0x8#4 ∨ nib = 0x9#4 ∨ nib = 0xA#4 ∨ nib = 0xB#4 ∨ nib = 0xC#4 ∨
        nib = 0xD#4 ∨ nib = 0xE#4 := by revert nib ch; decide
    rcases h3 with rfl | rfl | rfl | rfl | rfl | rfl | rfl <;> rfl
  have e := statusByte_opc_chan b
  have := key (opc b) (chan b) (by rw [e]; exact h) hf
  rw [e] at this
  simpa [decodeByte, h] using this

/-- The status bytes 0xF0..0xFF, whatever constructor they decode to, are one shared step (R120). -/
theorem exec_decodeByte_systemStatus {b : Byte} (h : isStatus b = true) (hf : opc b = 0xF#4)
    (s : State) :
    exec (decodeByte b) s = .next (s.putFeed (systemStatusStep s.params b s.dec)) := by
  have key : ∀ ch : Chan, exec (decodeSystem ch) s =
      .next (s.putFeed (systemStatusStep s.params (statusByte 0xF#4 ch) s.dec)) := by
    intro ch
    have h3 : ch = 0#4 ∨ ch = 1#4 ∨ ch = 2#4 ∨ ch = 3#4 ∨ ch = 4#4 ∨ ch = 5#4 ∨ ch = 6#4 ∨
        ch = 7#4 ∨ ch = 8#4 ∨ ch = 9#4 ∨ ch = 10#4 ∨ ch = 11#4 ∨ ch = 12#4 ∨ ch = 13#4 ∨
        ch = 14#4 ∨ ch = 15#4 := by revert ch; decide
    rcases h3 with rfl | rfl | rfl | rfl | rfl | rfl | rfl | rfl | rfl | rfl | rfl | rfl | rfl |
      rfl | rfl | rfl <;> rfl
  have e := statusByte_opc_chan b
  rw [hf] at e
  have := key (chan b)
  rw [e] at this
  simpa [decodeByte, h, hf, decodeStatus] using this

/-- A data byte is the data step (R93). -/
theorem exec_data (d : Data7) (s : State) :
    exec (.data d) s = .next (s.putFeed (dataStep d s.dec)) := rfl

/-! ### Words and the step -/

/-- What a decoded word is. -/
theorem decode_cases {p : Params} {w : InWord} {i : Instr} (h : decode p w = .ok i) :
    (∃ b, w = .wire b ∧ i = decodeByte b) ∨
    (∃ e, w = .event e ∧ e.misfit p = none ∧ i = decodeEvent e) := by
  cases w with
  | wire b => exact .inl ⟨b, rfl, by simpa [decode] using h.symm⟩
  | event e =>
    simp only [decode] at h
    split at h
    · exact absurd h (by simp)
    · exact .inr ⟨e, rfl, ‹_›, by simpa using h.symm⟩

/-- Everything a step can do, when it answers a next state. -/
theorem step_cases {s t : State} (h : step s = .next t) :
    (s.input = [] ∧ t = s) ∨
    (∃ rest, s.input = .rst :: rest ∧ t = { s with input := rest, dec := DecoderState.reset }) ∨
    (∃ w rest i, s.input = .word w :: rest ∧ decode s.params w = .ok i ∧
      exec i { s with input := rest } = .next t) := by
  unfold step fetch at h
  cases hi : s.input with
  | nil => simp only [hi] at h; exact .inl ⟨rfl, by simpa using h.symm⟩
  | cons x rest =>
    cases x with
    | rst =>
      simp only [hi] at h
      exact .inr (.inl ⟨rest, rfl, by simpa [State.applyReset] using h.symm⟩)
    | word w =>
      simp only [hi] at h
      cases hd : decode s.params w with
      | ok i => simp only [hd] at h; exact .inr (.inr ⟨w, rest, i, rfl, hd, h⟩)
      | error m => simp [hd] at h

/-! ### Runs -/

@[simp] theorem execAll_nil (s : State) : execAll [] s = .next s := rfl

theorem execAll_cons_next {i : Instr} {is : List Instr} {s t : State} (h : exec i s = .next t) :
    execAll (i :: is) s = execAll is t := by
  simp [execAll, h]

theorem execAll_append {is js : List Instr} {s t : State} (h : execAll is s = .next t) :
    execAll (is ++ js) s = execAll js t := by
  induction is generalizing s with
  | nil => simp only [execAll_nil, Host.Outcome.next.injEq] at h; simp [h]
  | cons i is ih =>
    simp only [List.cons_append, execAll] at h ⊢
    cases he : exec i s with
    | next u => simp only [he] at h ⊢; exact ih h
    | fault r => simp [he] at h
    | refused r => simp [he] at h

@[simp] theorem runSteps_zero (s : State) : runSteps 0 s = .next s := rfl

theorem runSteps_succ_next {n : Nat} {s t : State} (h : step s = .next t) :
    runSteps (n + 1) s = runSteps n t := by
  simp [runSteps, h]

@[simp] theorem feedTrace_nil (p : Params) (S : DecoderState) : feedTrace p S [] = (S, []) := rfl

theorem feedTrace_cons (p : Params) (S : DecoderState) (b : Byte) (bs : List Byte) :
    feedTrace p S (b :: bs) =
      ((feedTrace p (feed p S b).1 bs).1, (feed p S b).2 :: (feedTrace p (feed p S b).1 bs).2) := rfl

end Sys2Proof.Machine
end

