-- ==== Sys2Proof/Laws/PerInstr.lean ====
section
/-! SUPPORT. The family Presentable, one lemma per instruction: the word of a well-formed instruction is one the
port can carry (00_scope.md R8, 42_encoder.md R208). -/

namespace Sys2Proof.Laws.Presentable

/-- If the word of a well-formed instruction is an event, no field of it is too wide. -/
def Statement (i : Instr) : Prop :=
  ∀ p : Params, i.wf p = true → ∀ e, encode i = .event e → e.misfit p = none

/-- A decoder instruction's word is a byte. -/
theorem of_wire {i : Instr} {b : Byte} (h : encode i = .wire b) : Statement i := by
  intro p _ e he
  simp [h] at he

theorem fitsData_zero (p : Params) : p.fitsData 0 = true := by
  simp [Params.fitsData]

theorem fitsBend_zero (p : Params) : p.fitsBend 0 = true := by
  have h : (0 : Int) < 2 ^ (p.bendW - 1) := by positivity
  simp only [Params.fitsBend, Bool.and_eq_true, decide_eq_true_eq]
  omega

/-- An encoder instruction's word is an event; its fields fit if they do one by one. -/
theorem of_event {i : Instr} {e : PortEvent} (h : encode i = .event e)
    (hf : ∀ p : Params, i.wf p = true →
      p.fitsData e.a = true ∧ p.fitsData e.b = true ∧ p.fitsBend e.bend = true) : Statement i := by
  intro p hw e' he
  obtain ⟨ha, hb, hv⟩ := hf p hw
  obtain rfl : e = e' := by simpa [h] using he
  simp [PortEvent.misfit, ha, hb, hv]

theorem noteOff (ch : Chan) : Statement (.noteOff ch) := of_wire rfl
theorem noteOn (ch : Chan) : Statement (.noteOn ch) := of_wire rfl
theorem polyPressure (ch : Chan) : Statement (.polyPressure ch) := of_wire rfl
theorem controlChange (ch : Chan) : Statement (.controlChange ch) := of_wire rfl
theorem programChange (ch : Chan) : Statement (.programChange ch) := of_wire rfl
theorem channelPressure (ch : Chan) : Statement (.channelPressure ch) := of_wire rfl
theorem pitchBend (ch : Chan) : Statement (.pitchBend ch) := of_wire rfl
theorem sysF0 : Statement .sysF0 := of_wire rfl
theorem sysF1 : Statement .sysF1 := of_wire rfl
theorem sysF2 : Statement .sysF2 := of_wire rfl
theorem sysF3 : Statement .sysF3 := of_wire rfl
theorem sysF4 : Statement .sysF4 := of_wire rfl
theorem sysF5 : Statement .sysF5 := of_wire rfl
theorem tuneRequest : Statement .tuneRequest := of_wire rfl
theorem sysF7 : Statement .sysF7 := of_wire rfl
theorem clock : Statement .clock := of_wire rfl
theorem sysF9 : Statement .sysF9 := of_wire rfl
theorem start : Statement .start := of_wire rfl
theorem continue_ : Statement .continue_ := of_wire rfl
theorem stop : Statement .stop := of_wire rfl
theorem sysFD : Statement .sysFD := of_wire rfl
theorem activeSense : Statement .activeSense := of_wire rfl
theorem reset : Statement .reset := of_wire rfl
theorem data (d : Data7) : Statement (.data d) := of_wire rfl

theorem encNoteOff (ch : Chan) (a b : Nat) : Statement (.encNoteOff ch a b) :=
  of_event rfl fun p hw => by
    simp only [Instr.wf, Bool.and_eq_true] at hw
    exact ⟨hw.1, hw.2, fitsBend_zero p⟩

theorem encNoteOn (ch : Chan) (a b : Nat) : Statement (.encNoteOn ch a b) :=
  of_event rfl fun p hw => by
    simp only [Instr.wf, Bool.and_eq_true] at hw
    exact ⟨hw.1, hw.2, fitsBend_zero p⟩

theorem encPolyPressure (ch : Chan) (a b : Nat) : Statement (.encPolyPressure ch a b) :=
  of_event rfl fun p hw => by
    simp only [Instr.wf, Bool.and_eq_true] at hw
    exact ⟨hw.1, hw.2, fitsBend_zero p⟩

theorem encControlChange (ch : Chan) (a b : Nat) : Statement (.encControlChange ch a b) :=
  of_event rfl fun p hw => by
    simp only [Instr.wf, Bool.and_eq_true] at hw
    exact ⟨hw.1, hw.2, fitsBend_zero p⟩

theorem encProgramChange (ch : Chan) (a : Nat) : Statement (.encProgramChange ch a) :=
  of_event rfl fun p hw => ⟨hw, fitsData_zero p, fitsBend_zero p⟩

theorem encChannelPressure (ch : Chan) (a : Nat) : Statement (.encChannelPressure ch a) :=
  of_event rfl fun p hw => ⟨hw, fitsData_zero p, fitsBend_zero p⟩

theorem encPitchBend (ch : Chan) (v : Int) : Statement (.encPitchBend ch v) :=
  of_event rfl fun p hw => ⟨fitsData_zero p, fitsData_zero p, hw⟩

theorem encSystemRealtime (sub : BitVec 4) : Statement (.encSystemRealtime sub) :=
  of_event rfl fun p _ => ⟨fitsData_zero p, fitsData_zero p, fitsBend_zero p⟩

theorem encOther (k : BitVec 3) : Statement (.encOther k) :=
  of_event rfl fun p _ => ⟨fitsData_zero p, fitsData_zero p, fitsBend_zero p⟩

end Sys2Proof.Laws.Presentable
end

