-- ==== Sys2Proof/Tests/Slice0.lean ====
section
/-! SUPPORT. The model's own tests. Expected values come from spec/30_encoding.md (words, ports, notation) and
spec/95_test_vectors.md (E1 to E9, V1 to V6, part 3), named at each test. Three groups: well-formedness and
decoding; one step of each instruction; a witness for the hypotheses of each statement. -/

namespace Sys2Proof.Tests

open Sys2Proof.Machine

/-! ### Helpers -/

/-- The next state, if there is one. -/
def nextOf : Host.Outcome State Fault Refusal → Option State
  | .next s => some s
  | .fault _ => none
  | .refused _ => none

/-- The refusal, if there is one. -/
def refusalOf : Host.Outcome State Fault Refusal → Option Refusal
  | .refused r => some r
  | .next _ => none
  | .fault _ => none

/-- Reset, with these decoder registers. -/
def at_ (rs : Option Byte) (col : List Data7) (exp : Fin 3) : State :=
  { State.reset with dec := ⟨rs, none, col, exp⟩ }

/-- What an instruction leaves of the decoder: registers, events and names. -/
def decView (i : Instr) (s : State) : Option (DecoderState × List MidiEvent × List Anomaly) :=
  (nextOf (exec i s)).map fun t => (t.dec, t.evOut, t.decAnomalies)

/-- What an instruction leaves of the encoder: byte groups and names. -/
def encView (i : Instr) : Option (List (List Byte) × List Anomaly) :=
  (nextOf (exec i State.reset)).map fun t => (t.wireOut, t.encAnomalies)

/-- The registers and the outputs `feed` gives from reset, byte by byte. -/
def fed (bs : List Byte) : DecoderState × List MidiEvent :=
  (feedState Params.default resetState bs, feedEvents Params.default resetState bs)

/-! ### Well-formedness: for each check an ill-formed term, refused, beside the widest legal one -/

theorem wf_encNoteOff : (Instr.encNoteOff 0 256 0).wf Params.default = false ∧
    (Instr.encNoteOff 0 0 256).wf Params.default = false ∧
    (Instr.encNoteOff 15 255 255).wf Params.default = true := by decide
theorem wf_encNoteOn : (Instr.encNoteOn 0 256 0).wf Params.default = false ∧
    (Instr.encNoteOn 0 0 256).wf Params.default = false ∧
    (Instr.encNoteOn 15 255 255).wf Params.default = true := by decide
theorem wf_encPolyPressure : (Instr.encPolyPressure 0 256 0).wf Params.default = false ∧
    (Instr.encPolyPressure 0 0 256).wf Params.default = false ∧
    (Instr.encPolyPressure 15 255 255).wf Params.default = true := by decide
theorem wf_encControlChange : (Instr.encControlChange 0 256 0).wf Params.default = false ∧
    (Instr.encControlChange 0 0 256).wf Params.default = false ∧
    (Instr.encControlChange 15 255 255).wf Params.default = true := by decide
theorem wf_encProgramChange : (Instr.encProgramChange 0 256).wf Params.default = false ∧
    (Instr.encProgramChange 0 255).wf Params.default = true := by decide
theorem wf_encChannelPressure : (Instr.encChannelPressure 0 256).wf Params.default = false ∧
    (Instr.encChannelPressure 0 255).wf Params.default = true := by decide
theorem wf_encPitchBend : (Instr.encPitchBend 0 32768).wf Params.default = false ∧
    (Instr.encPitchBend 0 (-32769)).wf Params.default = false ∧
    (Instr.encPitchBend 0 32767).wf Params.default = true ∧
    (Instr.encPitchBend 0 (-32768)).wf Params.default = true := by decide
/-- A port event is rejected by the name of its first misfit, and `step` refuses it by that name (U10). -/
theorem wf_event_misfits :
    decode Params.default (.event ⟨0x9, 0, 256, 0, 0⟩) = .error .aTooWide ∧
    decode Params.default (.event ⟨0x9, 0, 0, 256, 0⟩) = .error .bTooWide ∧
    decode Params.default (.event ⟨0xE, 0, 0, 0, 32768⟩) = .error .bendTooWide ∧
    decode Params.default (.event ⟨0xE, 0, 0, 0, -32769⟩) = .error .bendTooWide := ⟨rfl, rfl, rfl, rfl⟩
theorem wf_step_refuses : refusalOf (step { State.reset with
    input := [.word (.event ⟨0x9, 0, 256, 0, 0⟩)] }) = some (.notPresentable .aTooWide) := by decide
/-- Illegal parameters are told from legal ones (R8, R66). -/
theorem wf_params : Params.default.Legal ∧ ¬ (Params.mk 6 16 RtTable.default).Legal ∧
    ¬ (Params.mk 8 13 RtTable.default).Legal ∧
    ¬ (Params.mk 8 16 (RtTable.default.set 0 (some .clock))).Legal ∧
    ¬ (Params.mk 8 16 (RtTable.default.set 4 (some .clock))).Legal ∧
    ¬ (Params.mk 8 16 (RtTable.default.set 6 none)).Legal ∧
    ¬ (Params.mk 8 16 (RtTable.default.set 9 (some .clock))).Legal :=
  ⟨by decide, by decide, by decide, by decide, by decide, by decide, by decide⟩
/-- A legal build with another table and other widths: tune-request at 0xF1, clock at 0xFD. -/
theorem wf_params_other : (Params.mk 7 14 #v[none, some .tuneRequest, none, none, none, none, none, none,
    some .start, none, some .continue_, some .stop, none, some .clock, some .reset,
    some .activeSense]).Legal := by decide

/-! ### Decoding: words written out bit by bit from R61, R62, R65, R66, R73 -/

theorem dec_channelVoice :
    decodeByte 0b10000011#8 = .noteOff 3 ∧ decodeByte 0b10011111#8 = .noteOn 15 ∧
    decodeByte 0b10100001#8 = .polyPressure 1 ∧ decodeByte 0b10111010#8 = .controlChange 10 ∧
    decodeByte 0b11000101#8 = .programChange 5 ∧ decodeByte 0b11011111#8 = .channelPressure 15 ∧
    decodeByte 0b11100000#8 = .pitchBend 0 := by decide
theorem dec_system :
    decodeByte 0b11110000#8 = .sysF0 ∧ decodeByte 0b11110001#8 = .sysF1 ∧
    decodeByte 0b11110010#8 = .sysF2 ∧ decodeByte 0b11110011#8 = .sysF3 ∧
    decodeByte 0b11110100#8 = .sysF4 ∧ decodeByte 0b11110101#8 = .sysF5 ∧
    decodeByte 0b11110110#8 = .tuneRequest ∧ decodeByte 0b11110111#8 = .sysF7 ∧
    decodeByte 0b11111000#8 = .clock ∧ decodeByte 0b11111001#8 = .sysF9 ∧
    decodeByte 0b11111010#8 = .start ∧ decodeByte 0b11111011#8 = .continue_ ∧
    decodeByte 0b11111100#8 = .stop ∧ decodeByte 0b11111101#8 = .sysFD ∧
    decodeByte 0b11111110#8 = .activeSense ∧ decodeByte 0b11111111#8 = .reset := by decide
theorem dec_data : decodeByte 0b00000000#8 = .data 0 ∧ decodeByte 0b00111100#8 = .data 60 ∧
    decodeByte 0b01111111#8 = .data 127 := by decide
theorem dec_events :
    decodeEvent ⟨0b1000#4, 0b0011#4, 0x3C, 0x40, 9⟩ = .encNoteOff 3 60 64 ∧
    decodeEvent ⟨0b1001#4, 0b0000#4, 0xC8, 0x05, 9⟩ = .encNoteOn 0 200 5 ∧
    decodeEvent ⟨0b1010#4, 0b0001#4, 0x40, 0x7F, 9⟩ = .encPolyPressure 1 64 127 ∧
    decodeEvent ⟨0b1011#4, 0b0000#4, 0x07, 0x64, 9⟩ = .encControlChange 0 7 100 ∧
    decodeEvent ⟨0b1100#4, 0b0101#4, 0x07, 9, 9⟩ = .encProgramChange 5 7 ∧
    decodeEvent ⟨0b1101#4, 0b1111#4, 0x00, 9, 9⟩ = .encChannelPressure 15 0 ∧
    decodeEvent ⟨0b1110#4, 0b0100#4, 9, 9, -1⟩ = .encPitchBend 4 (-1) ∧
    decodeEvent ⟨0b1111#4, 0b1000#4, 9, 9, 9⟩ = .encSystemRealtime 8 ∧
    decodeEvent ⟨0b0000#4, 9, 9, 9, 9⟩ = .encOther 0 ∧
    decodeEvent ⟨0b0111#4, 9, 9, 9, 9⟩ = .encOther 7 := by decide
/-- The host's numbering reaches both agents, and every constructor (log 6). -/
theorem dec_tableWords :
    decodeTableWord 8 0x93 = some (.noteOn 3) ∧ decodeTableWord 8 0xF8 = some .clock ∧
    decodeTableWord 8 0x00 = some (.data 0) ∧ decodeTableWord 8 0x3C = some (.data 60) ∧
    decodeTableWord 8 0x9 = some (.encNoteOn 0 0 0) ∧ decodeTableWord 4 0x9 = some (.encNoteOn 0 0 0) ∧
    decodeTableWord 8 0xF = some (.encSystemRealtime 0) ∧ decodeTableWord 4 0x0 = some (.encOther 0) ∧
    decodeTableWord 8 0x7 = some (.encOther 7) := ⟨rfl, rfl, rfl, rfl, rfl, rfl, rfl, rfl, rfl⟩
theorem dec_withFetchWord_runs :
    nextOf (step (State.reset.withFetchWord 8 0x93)) = nextOf (exec (.noteOn 3) State.reset) ∧
    nextOf (step (State.reset.withFetchWord 8 0x9)) = nextOf (exec (.encNoteOn 0 0 0) State.reset) := by
  decide

/-! ### One step of each instruction: the decoder -/

theorem test_noteOff : decView (.noteOff 3) (at_ (some 0x90) [0x3C] 2) =
    some (⟨some 0x83, none, [], 2⟩, [], [.abandonedMessage]) := by decide
theorem test_noteOn : decView (.noteOn 0) (at_ (some 0xF4) [] 0) =
    some (⟨some 0x90, none, [], 2⟩, [], []) := by decide
theorem test_polyPressure : decView (.polyPressure 1) State.reset =
    some (⟨some 0xA1, none, [], 2⟩, [], []) := by decide
theorem test_controlChange : decView (.controlChange 2) State.reset =
    some (⟨some 0xB2, none, [], 2⟩, [], []) := by decide
theorem test_programChange : decView (.programChange 5) (at_ (some 0x80) [] 2) =
    some (⟨some 0xC5, none, [], 1⟩, [], []) := by decide
theorem test_channelPressure : decView (.channelPressure 15) State.reset =
    some (⟨some 0xDF, none, [], 1⟩, [], []) := by decide
theorem test_pitchBend : decView (.pitchBend 0) (at_ (some 0xE0) [0x01] 2) =
    some (⟨some 0xE0, none, [], 2⟩, [], [.abandonedMessage]) := by decide
/-- V4, the bytes with no event; 0xF0 inside a message abandons it (V5). -/
theorem test_sysF0 : decView .sysF0 (at_ (some 0x90) [0x3C] 2) =
    some (⟨some 0xF0, none, [], 0⟩, [], [.abandonedMessage, .unsupportedStatus]) := by decide
theorem test_sysF1 : decView .sysF1 State.reset =
    some (⟨some 0xF1, none, [], 0⟩, [], [.unsupportedStatus]) := by decide
theorem test_sysF2 : decView .sysF2 State.reset =
    some (⟨some 0xF2, none, [], 0⟩, [], [.unsupportedStatus]) := by decide
theorem test_sysF3 : decView .sysF3 State.reset =
    some (⟨some 0xF3, none, [], 0⟩, [], [.unsupportedStatus]) := by decide
theorem test_sysF4 : decView .sysF4 State.reset =
    some (⟨some 0xF4, none, [], 0⟩, [], [.unsupportedStatus]) := by decide
theorem test_sysF5 : decView .sysF5 State.reset =
    some (⟨some 0xF5, none, [], 0⟩, [], [.unsupportedStatus]) := by decide
theorem test_tuneRequest : decView .tuneRequest State.reset =
    some (⟨some 0xF6, none, [], 0⟩, [.systemRealtime .tuneRequest], []) := by decide
theorem test_sysF7 : decView .sysF7 (at_ (some 0xF0) [] 0) =
    some (⟨some 0xF7, none, [], 0⟩, [], [.unsupportedStatus]) := by decide
/-- P2, byte 3. -/
theorem test_clock : decView .clock (at_ (some 0xB0) [0x07] 2) =
    some (⟨some 0xF8, none, [], 0⟩, [.systemRealtime .clock], [.abandonedMessage]) := by decide
theorem test_sysF9 : decView .sysF9 State.reset =
    some (⟨some 0xF9, none, [], 0⟩, [], [.unsupportedStatus]) := by decide
theorem test_start : decView .start State.reset =
    some (⟨some 0xFA, none, [], 0⟩, [.systemRealtime .start], []) := by decide
theorem test_continue : decView .continue_ State.reset =
    some (⟨some 0xFB, none, [], 0⟩, [.systemRealtime .continue_], []) := by decide
theorem test_stop : decView .stop State.reset =
    some (⟨some 0xFC, none, [], 0⟩, [.systemRealtime .stop], []) := by decide
theorem test_sysFD : decView .sysFD State.reset =
    some (⟨some 0xFD, none, [], 0⟩, [], [.unsupportedStatus]) := by decide
/-- P2, byte 9. -/
theorem test_activeSense : decView .activeSense (at_ (some 0xB0) [0x65] 2) =
    some (⟨some 0xFE, none, [], 0⟩, [.systemRealtime .activeSense], [.abandonedMessage]) := by decide
/-- V4: the byte 0xFF does not reset the decoder. -/
theorem test_reset : decView .reset (at_ (some 0x90) [] 2) =
    some (⟨some 0xFF, none, [], 0⟩, [.systemRealtime .reset], []) := by decide
/-- DATA that emits nothing: P1 byte 1, E2 byte 2, V5. -/
theorem test_data_silent :
    decView (.data 0x12) State.reset = some (⟨none, none, [], 0⟩, [], [.orphanData]) ∧
    decView (.data 0x01) (at_ (some 0x90) [] 2) = some (⟨some 0x90, none, [0x01], 2⟩, [], []) ∧
    decView (.data 0x3C) (at_ (some 0xF8) [] 0) = some (⟨some 0xF8, none, [], 0⟩, [], [.systemData]) := by
  decide
/-- DATA that emits, each family once: V1, and -1 of V3. -/
theorem test_data_emits :
    decView (.data 0x40) (at_ (some 0x83) [0x3C] 2) =
      some (⟨some 0x83, none, [], 2⟩, [.noteOff 3 60 64], []) ∧
    decView (.data 0x00) (at_ (some 0x90) [0x3C] 2) =
      some (⟨some 0x90, none, [], 2⟩, [.noteOn 0 60 0], []) ∧
    decView (.data 0x7F) (at_ (some 0xA1) [0x40] 2) =
      some (⟨some 0xA1, none, [], 2⟩, [.polyPressure 1 64 127], []) ∧
    decView (.data 0x64) (at_ (some 0xB0) [0x07] 2) =
      some (⟨some 0xB0, none, [], 2⟩, [.controlChange 0 7 100], []) ∧
    decView (.data 0x07) (at_ (some 0xC5) [] 1) =
      some (⟨some 0xC5, none, [], 1⟩, [.programChange 5 7], []) ∧
    decView (.data 0x00) (at_ (some 0xDF) [] 1) =
      some (⟨some 0xDF, none, [], 1⟩, [.channelPressure 15 0], []) ∧
    decView (.data 0x3F) (at_ (some 0xE0) [0x7F] 2) =
      some (⟨some 0xE0, none, [], 2⟩, [.pitchBend 0 (-1)], []) :=
  ⟨by decide, by decide, by decide, by decide, by decide, by decide, by decide⟩

/-! ### One step of each instruction: the encoder (part 3) -/

theorem test_encNoteOff : encView (.encNoteOff 3 60 64) = some ([[0x83, 0x3C, 0x40]], []) := by decide
/-- E4, the source's own; and 128, 255. -/
theorem test_encNoteOn : encView (.encNoteOn 0 200 5) = some ([[0x90, 0x48, 0x05]], []) ∧
    encView (.encNoteOn 0 128 255) = some ([[0x90, 0x00, 0x7F]], []) := by decide
theorem test_encPolyPressure :
    encView (.encPolyPressure 1 64 127) = some ([[0xA1, 0x40, 0x7F]], []) := by decide
theorem test_encControlChange :
    encView (.encControlChange 9 135 255) = some ([[0xB9, 0x07, 0x7F]], []) := by decide
theorem test_encProgramChange : encView (.encProgramChange 5 129) = some ([[0xC5, 0x01]], []) := by decide
theorem test_encChannelPressure :
    encView (.encChannelPressure 2 255) = some ([[0xD2, 0x7F]], []) := by decide
/-- E3, the source's own; both signs; the least value. -/
theorem test_encPitchBend : encView (.encPitchBend 0 0) = some ([[0xE0, 0x00, 0x40]], []) ∧
    encView (.encPitchBend 7 1000) = some ([[0xE7, 0x68, 0x47]], []) ∧
    encView (.encPitchBend 7 (-1000)) = some ([[0xE7, 0x18, 0x38]], []) ∧
    encView (.encPitchBend 0 (-8192)) = some ([[0xE0, 0x00, 0x00]], []) := by decide
/-- Out of range, D18. -/
theorem test_encPitchBend_wraps : encView (.encPitchBend 0 8192) = some ([[0xE0, 0x00, 0x00]], []) ∧
    encView (.encPitchBend 0 (-8193)) = some ([[0xE0, 0x7F, 0x7F]], []) ∧
    encView (.encPitchBend 0 32767) = some ([[0xE0, 0x7F, 0x3F]], []) ∧
    encView (.encPitchBend 0 (-32768)) = some ([[0xE0, 0x00, 0x40]], []) := by decide
theorem test_encSystemRealtime :
    encView (.encSystemRealtime 8) = some ([], [.unsupportedEvent]) := by decide
theorem test_encOther : encView (.encOther 3) = some ([], [.unsupportedEvent]) := by decide

/-! ### The step, the normative functions, the ports, the layout, the notation -/

theorem test_step_idle : nextOf (step State.reset) = some State.reset := by decide
theorem test_step_reset_line :
    (nextOf (step { at_ (some 0x90) [0x3C] 2 with input := [.rst] })).map State.dec =
      some ⟨none, none, [], 0⟩ := by decide
/-- E2, the source's own. -/
theorem test_feed_running_status : fed [0x90, 0x01, 0x02, 0x03, 0x04] =
    (⟨some 0x90, none, [], 2⟩, [.noteOn 0 1 2, .noteOn 0 3 4]) := by decide
/-- E6, the source's own; V5, an exclusive block. -/
theorem test_feed_system : fed [0xF4, 0x90, 0x3C, 0x40] =
      (⟨some 0x90, none, [], 2⟩, [.noteOn 0 60 64]) ∧
    fed [0x90, 0xF0, 0x7E, 0x7F, 0xF7, 0x3C, 0x40] = (⟨some 0xF7, none, [], 0⟩, []) := by decide
/-- V6. -/
theorem test_ports_event :
    EventPins.ofPort 8 16 (eventToPort Params.default (.pitchBend 0 (-8192))) =
      ⟨0xE, 0x0, 0x00, 0x00, 0xE000⟩ ∧
    EventPins.ofPort 8 16 (eventToPort Params.default (.systemRealtime .clock)) =
      ⟨0xF, 0x8, 0x00, 0x00, 0x0000⟩ ∧
    EventPins.ofPort 8 16 (eventToPort Params.default (.noteOn 15 127 127)) =
      ⟨0x9, 0xF, 0x7F, 0x7F, 0x0000⟩ := by decide
/-- R55: an event shows in the cycle of its last byte; reset wins over a byte. -/
theorem test_ports_cycle :
    (decCycle Params.default ⟨false, true, 0x40⟩ ⟨some 0x90, none, [0x3C], 2⟩).2.valid = true ∧
    (decCycle Params.default ⟨true, true, 0x40⟩ ⟨some 0x90, none, [0x3C], 2⟩).2.valid = false ∧
    (decCycle Params.default ⟨true, true, 0x40⟩ ⟨some 0x90, none, [0x3C], 2⟩).1 = resetState := by decide
/-- E4 on the ports; part 3 on the ports; `enc_ev_valid = 0`. -/
theorem test_ports_encoder :
    encPins (dw := 8) (bw := 16) ⟨true, ⟨0x9, 0x0, 0xC8, 0x05, 0⟩⟩ = ⟨3, 0x90, 0x48, 0x05⟩ ∧
    encPins (dw := 8) (bw := 16) ⟨true, ⟨0xC, 0x5, 0x81, 0xFF, 0⟩⟩ = ⟨2, 0xC5, 0x01, 0x00⟩ ∧
    encPins (dw := 8) (bw := 16) ⟨true, ⟨0xE, 0x4, 0, 0, 0xFFFF⟩⟩ = ⟨3, 0xE4, 0x7F, 0x3F⟩ ∧
    encPins (dw := 8) (bw := 16) ⟨true, ⟨0xF, 0x8, 0, 0, 0⟩⟩ = ⟨0, 0, 0, 0⟩ ∧
    encPins (dw := 8) (bw := 16) ⟨false, ⟨0x9, 0x0, 0xC8, 0x05, 0⟩⟩ = ⟨0, 0, 0, 0⟩ := by decide
/-- R34: 0x90 cached, 0x3C collected. -/
theorem test_layout : Layout.pack ⟨some 0x90, none, [0x3C], 2⟩ = ⟨1, 0x90, 0, 0x00, 1, 0x3C, 2⟩ := by
  decide

/-- R76's own examples; 123 and 125 are the braces. -/
theorem test_text : textBytes [0x90, 0x01, 0x02] = "[0x90, 0x01, 0x02]" ∧ textOut none = "-" ∧
    textEvent (.noteOn 0 1 2) = "NoteOn" ++ String.singleton (Char.ofNat 123) ++
      "channel=0, note=1, velocity=2" ++ String.singleton (Char.ofNat 125) ∧
    textState ⟨some 0x90, none, [0x3C], 2⟩ = String.singleton (Char.ofNat 123) ++
      "rs=0x90, ps=None, col=[0x3C], exp=2" ++ String.singleton (Char.ofNat 125) :=
  ⟨by decide, by decide, by decide, by decide⟩

/-! ### Witnesses: concrete states and operands that meet the hypotheses of each statement, at boundary values -/

/-- A message in progress, channel 15, data byte 127. -/
def midNote : DecoderState := ⟨some 0x9F, none, [0x7F], 2⟩

theorem midNote_inv : midNote.Inv :=
  ⟨by decide, by decide, by decide, by decide, by decide, rfl⟩

/-- Both agents at work: a message in progress, a byte, an event and the reset line to come, output behind. -/
def busy : State :=
  { State.reset with
    dec := midNote
    input := [.word (.wire 0x7F), .word (.event ⟨0x9, 0, 200, 5, 0⟩), .rst]
    evOut := [.pitchBend 0 (-8192), .pitchBend 0 8191, .programChange 5 127]
    wireOut := [[0xE0, 0x00, 0x40], [0xC5, 0x07]] }

theorem busy_inv : busy.Inv := by
  refine ⟨by decide, midNote_inv, ?_, ?_⟩
  · intro e he
    simp only [busy, List.mem_cons, List.not_mem_nil, or_false] at he
    rcases he with rfl | rfl | rfl <;> simp [MidiEvent.InRange]
  · intro g hg
    simp only [busy, List.mem_cons, List.not_mem_nil, or_false] at hg
    rcases hg with rfl | rfl
    · exact ⟨0xE0, [0x00, 0x40], rfl, by decide, by decide, by decide⟩
    · exact ⟨0xC5, [0x07], rfl, by decide, by decide, by decide⟩

/-- The same codec with other lines of input. -/
def busyWith (input : List InItem) : State := { busy with input := input }

theorem witness_ResetHasTheInvariant : (Params.mk 7 14 RtTable.default).Legal := by decide
theorem witness_DecodeOfEncodeIsTheInstruction : (Instr.noteOn 15).wf Params.default = true ∧
    (Instr.encNoteOn 15 255 0).wf Params.default = true ∧
    (Instr.encPitchBend 0 (-32768)).wf Params.default = true := by decide
theorem witness_EncodeOfDecodeIsTheWord : decode Params.default (.wire 0xFF) = .ok .reset ∧
    decode Params.default (.event ⟨0xC, 5, 255, 9, 9⟩) = .ok (.encProgramChange 5 255) := ⟨rfl, rfl⟩
theorem witness_EveryWordHasExactlyOneRow : decode Params.default (.wire 0x00) = .ok (.data 0) ∧
    decode Params.default (.event ⟨0x7, 0, 0, 0, 0⟩) = .ok (.encOther 7) := ⟨rfl, rfl⟩
theorem witness_UnusedFieldsAndHighBitsDoNotMatter :
    ((PortEvent.mk 0xC 5 7 255 9).misfit Params.default = none ∧
      (PortEvent.mk 0xC 5 7 0 (-9)).misfit Params.default = none ∧
      (PortEvent.mk 0xC 5 7 255 9).used = (PortEvent.mk 0xC 5 7 0 (-9)).used) ∧
    200 % 128 = 72 % 128 ∧ (8192 : Int) % 16384 = (-8192) % 16384 := by decide
theorem witness_StepRunsTheDecodedInstruction :
    busy.input = .word (.wire 0x7F) :: [.word (.event ⟨0x9, 0, 200, 5, 0⟩), .rst] ∧
    decode busy.params (.wire 0x7F) = .ok (.data 127) := ⟨rfl, rfl⟩
theorem witness_StepWaitsOrResets : (busyWith []).input = [] ∧ (busyWith [.rst]).input = .rst :: [] :=
  ⟨rfl, rfl⟩
/-- A byte that completes a message, an event, the reset line and no input at all. -/
theorem witness_EveryStepKeepsTheInvariant : busy.Inv ∧
    ((nextOf (step busy)).map fun t => (t.dec, t.evOut.length)) = some (⟨some 0x9F, none, [], 2⟩, 4) ∧
    ((nextOf (step (busyWith [.word (.event ⟨0x9, 0, 200, 5, 0⟩)]))).map fun t => t.wireOut.length) =
      some 3 ∧
    ((nextOf (step (busyWith [.rst]))).map State.dec) = some ⟨none, none, [], 0⟩ ∧
    nextOf (step (busyWith [])) = some (busyWith []) := ⟨busy_inv, by decide⟩
/-- Both ends of the range, a supported and an unsupported system byte. -/
theorem witness_StatusByteIsCachedInEveryState : 0x80 ≤ (0x80#8).toNat ∧ (0x80#8).toNat / 16 = 0x8 ∧
    (0xBF#8).toNat / 16 = 0xB ∧ (0xC0#8).toNat / 16 = 0xC ∧ (0xDF#8).toNat / 16 = 0xD ∧
    (0xEF#8).toNat / 16 = 0xE ∧ (0xF0#8).toNat / 16 = 0xF ∧ (0xFF#8).toNat / 16 = 0xF ∧
    rt busy.params 0xFF = some .reset ∧ rt busy.params 0xF0 = none := by decide
theorem witness_DefaultTableEvents : busy.params.rtTable = RtTable.default := rfl
theorem witness_EveryLegalTableSupportsSevenBytes : busy.params.Legal ∧
    (feed busy.params busy.dec 0xF6).2 = some (.systemRealtime .tuneRequest) ∧
    0xF1 ≤ (0xF1#8).toNat ∧ (0xF6#8).toNat ≤ 0xF6 := by decide
theorem witness_StatusByteForgetsThePast : 0x80 ≤ (0x80#8).toNat ∧ 0x80 ≤ (0xFF#8).toNat := by decide
theorem witness_RunningStatusIsTheLastStatusByte : 0x80 ≤ (0x80#8).toNat ∧
    (nextOf (execAll ([0x12, 0xE0, 0x7F].map decodeByte) State.reset)).map State.dec =
      some ⟨some 0xE0, none, [0x7F], 2⟩ ∧
    (nextOf (execAll ([0x12, 0x34].map decodeByte) State.reset)).map State.dec =
      some ⟨none, none, [], 0⟩ := by decide
theorem witness_UnsupportedStatusDoesNotCorruptTheNextMessage : busy.params.rtTable[4] = none := by decide
theorem witness_OrphanDataChangesNothing : State.reset.dec.runningStatus = none := rfl
theorem witness_SeekEndsAtTheFirstStatusByte : State.reset.dec.runningStatus = none ∧
    0x80 ≤ (0xF4#8).toNat ∧ busy.dec.runningStatus ≠ none ∧
    ((nextOf (exec (.data 0) busy)).map State.dec) = some ⟨some 0x9F, none, [], 2⟩ := by decide
theorem witness_DataUnderASystemStatusIsDiscarded :
    (at_ (some 0xF0) [] 0).dec.runningStatus = some 0xF0 ∧ 0xF0 ≤ (0xF0#8).toNat ∧
    (at_ (some 0xFF) [] 0).dec.runningStatus = some 0xFF ∧ 0xF0 ≤ (0xFF#8).toNat := by decide
theorem witness_IncompleteMessageCollectsItsByte :
    (at_ (some 0x80) [] 2).dec.runningStatus = some 0x80 ∧ 0x80 ≤ (0x80#8).toNat ∧
    (0xEF#8).toNat < 0xF0 ∧ (at_ (some 0xEF) [] 2).dec.collected.length + 1 ≠ (2 : Fin 3).val := by decide
/-- Each of the five families, channels 0 and 15. -/
theorem witness_SecondDataByteEmitsTheEvent : (at_ (some 0x80) [0] 2).dec.collected = [0] ∧
    (at_ (some 0x80) [0] 2).dec.expectedCount = 2 ∧
    (at_ (some 0x80) [0] 2).dec.runningStatus = some (statusSum 0x80 0) ∧
    (at_ (some 0x9F) [0] 2).dec.runningStatus = some (statusSum 0x90 15) ∧
    (at_ (some 0xA0) [0] 2).dec.runningStatus = some (statusSum 0xA0 0) ∧
    (at_ (some 0xBF) [0] 2).dec.runningStatus = some (statusSum 0xB0 15) ∧
    (at_ (some 0xEF) [0] 2).dec.runningStatus = some (statusSum 0xE0 15) := by decide
theorem witness_OnlyDataByteEmitsTheEvent : (at_ (some 0xC0) [] 1).dec.collected = [] ∧
    (at_ (some 0xC0) [] 1).dec.expectedCount = 1 ∧
    (at_ (some 0xC0) [] 1).dec.runningStatus = some (statusSum 0xC0 0) ∧
    (at_ (some 0xDF) [] 1).dec.runningStatus = some (statusSum 0xD0 15) := by decide
theorem witness_RunningStatusNeverRunsOut :
    ((at_ (some 0x80) [] 2).dec.runningStatus = some 0x80 ∧ (at_ (some 0x80) [] 2).dec.collected = [] ∧
      (at_ (some 0x80) [] 2).dec.expectedCount = 2 ∧ 0x80 ≤ (0x80#8).toNat ∧ (0x80#8).toNat < 0xF0 ∧
      ∀ x y, assemble 0x80 [x, y] = some (.noteOff 0 x.toNat y.toNat)) ∧
    ((at_ (some 0xDF) [] 1).dec.runningStatus = some 0xDF ∧ (at_ (some 0xDF) [] 1).dec.collected = [] ∧
      (at_ (some 0xDF) [] 1).dec.expectedCount = 1 ∧ 0x80 ≤ (0xDF#8).toNat ∧ (0xDF#8).toNat < 0xF0 ∧
      ∀ x, assemble 0xDF [x] = some (.channelPressure 15 x.toNat)) :=
  ⟨⟨rfl, rfl, rfl, by decide, by decide, fun _ _ => rfl⟩,
    ⟨rfl, rfl, rfl, by decide, by decide, fun _ => rfl⟩⟩
theorem witness_ExclusiveBlockEmitsNothing :
    busy.params.rtTable[0] = none ∧ busy.params.rtTable[7] = none := by decide
theorem witness_SystemByteEndsTheMessageInProgress :
    0xF0 ≤ (0xF0#8).toNat ∧ 0xF0 ≤ (0xFF#8).toNat := by decide
theorem witness_ResetMidMessageSeeksAgain :
    (busyWith [.rst, .word (.wire 0x40)]).input =
      .rst :: ([(0x40 : Data7)].map fun d => .word (.wire (dataByte d))) ++ [] := by decide
theorem witness_DecoderInstructionsLeaveTheRestAlone : (Instr.data 0x7F).isEncoder = false ∧
    Instr.reset.isEncoder = false ∧ (nextOf (exec (.data 0x7F) busy)).isSome = true := by decide
/-- Both ways to emit: a supported system byte, and the last data byte. -/
theorem witness_EventComesAtTheCompletingByte : busy.dec.Inv ∧ rt busy.params 0xF8 = some .clock ∧
    ((0x7F#8).toNat < 0x80 ∧ busy.dec.runningStatus = some 0x9F ∧ isChannelVoice 0x9F = true ∧
      busy.dec.collected.length + 1 = (dlen 0x9F).val) := ⟨midNote_inv, by decide⟩
theorem witness_EncoderIsTotalAndStateless : (Instr.encNoteOn 15 255 0).isEncoder = true ∧
    (Instr.encProgramChange 0 0).isEncoder = true ∧ (Instr.encOther 7).isEncoder = true := by decide
theorem witness_EncodesTwoParametersInThreeBytes :
    (PortEvent.mk 0x8 0 0 255 0).misfit Params.default = none ∧
    (PortEvent.mk 0x9 15 255 0 0).misfit Params.default = none ∧
    (PortEvent.mk 0xA 0 127 128 0).misfit Params.default = none ∧
    (PortEvent.mk 0xB 15 128 127 0).misfit Params.default = none := by decide
theorem witness_EncodesOneParameterInTwoBytes :
    (PortEvent.mk 0xC 0 255 0 0).misfit Params.default = none ∧
    (PortEvent.mk 0xD 15 0 255 0).misfit Params.default = none ∧
    ((0xC#4) = 0xC ∨ (0xC#4) = 0xD) ∧ ((0xD#4) = 0xC ∨ (0xD#4) = 0xD) := by decide
/-- Both ends of the range (R69), and a second data byte to complete. -/
theorem witness_PitchBendOperandBothWays :
    (at_ (some 0xEF) [0x7F] 2).dec.runningStatus = some (statusSum 0xE0 15) ∧
    (at_ (some 0xEF) [0x7F] 2).dec.collected = [0x7F] ∧
    (at_ (some 0xEF) [0x7F] 2).dec.expectedCount = 2 ∧
    -8192 ≤ (-8192 : Int) ∧ (8191 : Int) ≤ 8191 := by decide
theorem witness_EncodesPitchBendBiased : -8192 ≤ (-8192 : Int) ∧ (8191 : Int) ≤ 8191 := by decide
theorem witness_DataBytesAreMaskedParameters : 127 < 128 ∧ ¬ 128 < 128 ∧ -8192 ≤ (-1 : Int) ∧
    (-1 : Int) ≤ 8191 := by decide
theorem witness_UnsupportedEventsGiveNoBytes : (0xF#4) = 0xF ∧ (0x7#4).toNat < 8 := by decide
theorem witness_RunIsFeedAndEncodeSideBySide :
    let l : List InItem := [.word (.wire 0x7F), .word (.event ⟨0x9, 0, 255, 5, -32768⟩)]
    .rst ∉ (busyWith l).input ∧ InputFits (busyWith l).params (busyWith l).input := by
  refine ⟨by decide, ?_⟩
  intro e he
  simp only [busyWith, inputEvents, List.mem_singleton] at he
  subst he; decide
/-- Two orders of the same byte and the same event. -/
theorem witness_DecoderAndEncoderCommute :
    let a : InItem := .word (.wire 0x7F)
    let b : InItem := .word (.event ⟨0x9, 0, 255, 5, 0⟩)
    (Instr.data 0x7F).isEncoder = false ∧ (Instr.encNoteOn 0 255 5).isEncoder = true ∧
    .rst ∉ [a, b] ∧ .rst ∉ [b, a] ∧ InputFits busy.params [a, b] ∧
    inputBytes [a, b] = inputBytes [b, a] ∧ inputEvents [a, b] = inputEvents [b, a] := by
  refine ⟨rfl, rfl, by decide, by decide, ?_, rfl, rfl⟩
  intro e he
  simp only [inputEvents, List.mem_singleton] at he
  subst he; decide
theorem witness_WireToEventToWire : busy.params.Legal ∧ 0x80 ≤ (0x80#8).toNat ∧ (0xEF#8).toNat < 0xF0 ∧
    [(0 : Data7), 127].length = (dlen 0x80).val ∧ [(0 : Data7), 127].length = (dlen 0xEF).val ∧
    [(127 : Data7)].length = (dlen 0xC0).val := by decide
theorem witness_EventToWireToEvent :
    encodeEvent (.noteOn 15 200 255) = some [0x9F, 0x48, 0x7F] ∧
    encodeEvent (.pitchBend 0 8192) = some [0xE0, 0x00, 0x00] ∧
    (MidiEvent.pitchBend 0 (-8192)).InRange ∧ (MidiEvent.noteOn 15 127 0).InRange :=
  ⟨by decide, by decide, by simp [MidiEvent.InRange], by simp [MidiEvent.InRange]⟩
/-- Every kind of cycle: reset with a byte, a byte, an idle cycle. -/
theorem witness_DecoderPortsShowTheEvents :
    (busyWith [.rst, .word (.wire 0xF8)]).input =
      [DecIn.mk true true 0x40, ⟨false, true, 0xF8⟩, ⟨false, false, 0x90⟩].flatMap DecIn.items := by decide
theorem witness_EncoderPinsAreEncode : (Params.mk 7 14 RtTable.default).Legal := by decide
/-- An event that comes with a data byte, and one that comes with a status byte. -/
theorem witness_EmittedEventOnThePort : busy.params.Legal ∧ busy.dec.Inv ∧
    (feed busy.params busy.dec 0x00).2 = some (.noteOn 15 127 0) ∧
    (feed busy.params busy.dec 0xFF).2 = some (.systemRealtime .reset) :=
  ⟨by decide, midNote_inv, by decide, by decide⟩
/-- A message in progress; and nothing cached, where both `rs` and `col0` are held at 0. -/
theorem witness_StorageLayoutHoldsTheState : midNote.Inv ∧ DecoderState.reset.Inv ∧
    (Layout.pack DecoderState.reset).rsValid = 0 ∧ (Layout.pack DecoderState.reset).colCnt = 0 :=
  ⟨midNote_inv, ⟨by decide, by decide, by decide, by decide, by decide, rfl⟩, by decide, by decide⟩

end Sys2Proof.Tests
end

section
/-! PROOF. `running_status` is the last status byte fed (R21): what one byte does to the register, then an
induction over the bytes. -/

namespace Sys2Proof.Machine

/-! ### One byte -/

/-- R93 to R95, R137: in each of the three cases of a data byte the cached status stays. -/
@[simp] theorem dataStep_runningStatus (d : Data7) (S : DecoderState) :
    (dataStep d S).state.runningStatus = S.runningStatus := by
  obtain ⟨-, h⟩ | ⟨s, -, -, h⟩ | ⟨s, -, -, h⟩ := dataStep_cases d S
  · rw [h]
  · rw [h]
  · obtain ⟨-, ha⟩ | ⟨-, ha⟩ := appendStep_cases s d S <;> rw [h, ha]

/-- R120: supported or not, a system status byte is cached. -/
@[simp] theorem systemStatusStep_state (p : Params) (b : Byte) (S : DecoderState) :
    (systemStatusStep p b S).state = S.cache b := by
  obtain ⟨_, -, h⟩ | ⟨-, h⟩ := systemStatusStep_cases p b S <;> rw [h]

/-- R92, R120: any status byte, of either class, is cached. -/
theorem exec_decodeByte_status_dec {b : Byte} (h : isStatus b = true) (s : State) :
    ∃ t, exec (decodeByte b) s = .next t ∧ t.dec = s.dec.cache b := by
  by_cases hf : opc b = 0xF#4
  · exact ⟨_, exec_decodeByte_systemStatus h hf s, by simp⟩
  · exact ⟨_, exec_decodeByte_channelStatus h hf s, rfl⟩

/-- R21 for one byte: a status byte is written to the register, a data byte leaves it. -/
theorem exec_decodeByte_runningStatus (b : Byte) (s : State) :
    ∃ t, exec (decodeByte b) s = .next t ∧
      t.dec.runningStatus = if 0x80 ≤ b.toNat then some b else s.dec.runningStatus := by
  cases h : isStatus b with
  | true =>
    obtain ⟨t, ht, hdec⟩ := exec_decodeByte_status_dec h s
    exact ⟨t, ht, by rw [hdec, if_pos ((isStatus_iff b).1 h), DecoderState.cache_runningStatus]⟩
  | false =>
    have hlt : ¬ 0x80 ≤ b.toNat := Nat.not_le.2 ((not_isStatus_iff b).1 h)
    exact ⟨_, by rw [decodeByte_of_data h, exec_data], by simp [hlt]⟩

/-! ### The last status byte of a list -/

/-- The last status byte of a list: what R21 says `running_status` is after the list is fed. -/
def lastStatus (bs : List Byte) : Option Byte := (bs.filter fun b => 0x80 ≤ b.toNat).getLast?

@[simp] theorem lastStatus_nil : lastStatus [] = none := rfl

theorem lastStatus_cons (b : Byte) (bs : List Byte) :
    lastStatus (b :: bs) = (lastStatus bs).or (if 0x80 ≤ b.toNat then some b else none) := by
  by_cases h : 0x80 ≤ b.toNat
  · simp [lastStatus, h, List.getLast?_cons, Option.or_some]
  · simp [lastStatus, h]

theorem lastStatus_eq_none_iff (bs : List Byte) :
    lastStatus bs = none ↔ ∀ b ∈ bs, b.toNat < 0x80 := by
  simp [lastStatus]

theorem status_of_lastStatus {bs : List Byte} {b : Byte} (h : lastStatus bs = some b) :
    0x80 ≤ b.toNat := by
  have hmem := List.mem_of_getLast? h
  simpa using (List.mem_filter.1 hmem).2

/-! ### Any number of bytes -/

/-- R21: after a run of bytes the register holds the last status byte among them, or what it held. -/
theorem execAll_decodeByte_runningStatus (bs : List Byte) (s : State) :
    ∃ t, execAll (bs.map decodeByte) s = .next t ∧
      t.dec.runningStatus = (lastStatus bs).or s.dec.runningStatus := by
  induction bs generalizing s with
  | nil => exact ⟨s, rfl, rfl⟩
  | cons b bs ih =>
    obtain ⟨u, hu, hrs⟩ := exec_decodeByte_runningStatus b s
    obtain ⟨t, ht, htrs⟩ := ih u
    refine ⟨t, by rw [List.map_cons, execAll_cons_next hu, ht], ?_⟩
    rw [htrs, hrs, lastStatus_cons, Option.or_assoc]
    split <;> simp

/-- R21 from reset, where the register is absent: it holds the last status byte fed, if any. -/
theorem runningStatus_eq_lastStatus_of_reset {p : Params} {bs : List Byte} {t : State}
    (h : execAll (bs.map decodeByte) (State.resetWith p) = .next t) :
    t.dec.runningStatus = lastStatus bs := by
  obtain ⟨u, hu, hrs⟩ := execAll_decodeByte_runningStatus bs (State.resetWith p)
  obtain rfl : u = t := by simpa [hu] using h
  exact hrs.trans Option.or_none

/-! ### The obligation -/

/-- Settles O19, by induction over the bytes: from reset the register is the last status byte of the list, so it
is absent exactly when the list has none. -/
theorem runningStatusIsTheLastStatusByte : Obligations.RunningStatusIsTheLastStatusByte := by
  refine ⟨execAll_decodeByte_runningStatus, fun p bs t h => ?_, fun p b hb => ?_⟩
  · rw [runningStatus_eq_lastStatus_of_reset h]
    exact ⟨lastStatus_eq_none_iff bs, fun _ => status_of_lastStatus⟩
  · obtain ⟨t, ht, hrs⟩ := execAll_decodeByte_runningStatus [b] (State.resetWith p)
    exact ⟨t, ht, by simp [hrs, lastStatus_cons, hb]⟩

end Sys2Proof.Machine
end

section
/-! PROOF. What the encoder gives (R27, R150): the form of its three results, and that they do not depend on
the state. -/

namespace Sys2Proof.Machine

/-- R61, R65: a byte built on an opcode nibble 0x8..0xF is a status byte. -/
theorem isStatus_statusByte {nib : Nibble} (h : nib.getLsbD 3 = true) (ch : Chan) :
    isStatus (statusByte nib ch) = true := by
  revert nib ch; decide

theorem groupOk_encodeThree {nib : Nibble} (h : nib.getLsbD 3 = true) (ch : Chan) (x y : Data7) :
    GroupOk [statusByte nib ch, dataByte x, dataByte y] :=
  ⟨_, _, rfl, .inr rfl, isStatus_statusByte h ch, by simp⟩

theorem groupOk_encodeTwo {nib : Nibble} (h : nib.getLsbD 3 = true) (ch : Chan) (x : Data7) :
    GroupOk [statusByte nib ch, dataByte x] :=
  ⟨_, _, rfl, .inl rfl, isStatus_statusByte h ch, by simp⟩

/-! ### The obligation -/

/-- Settles O37, from the encoder's inversion lemma: the result it names is the same in every state, and each of
its three forms is nothing or a group of the right shape. -/
theorem encoderIsTotalAndStateless : Obligations.EncoderIsTotalAndStateless := by
  intro i hi
  obtain ⟨r, hexec, hform⟩ := exec_encoder_cases hi
  refine ⟨r.bytes, r.anomalies, fun g hg => ?_, hexec⟩
  obtain ⟨nib, ch, x, y, hnib, rfl⟩ | ⟨nib, ch, x, hnib, rfl⟩ | rfl := hform
  · obtain rfl := Option.some.inj hg
    exact ⟨groupOk_encodeThree hnib ch x y, .inr rfl⟩
  · obtain rfl := Option.some.inj hg
    exact ⟨groupOk_encodeTwo hnib ch x, .inl rfl⟩
  · cases hg

end Sys2Proof.Machine
end

section
/-! PROOF. The decoder and the encoder share nothing (R49): each instruction is an update of its agent's half of
the state, the two updates commute, and so a run of any interleaving is the decoder's run followed by the
encoder's. -/

namespace Sys2Proof.Machine

/-! ### A decoder instruction as the step of its byte -/

theorem decodeByte_statusByte {nib : Nibble} (h : nib.getLsbD 3 = true) (ch : Chan) :
    decodeByte (statusByte nib ch) = decodeStatus nib ch := by
  simp [decodeByte, isStatus_statusByte h]

/-- R65, R66, R67: a decoder instruction's word is a wire byte that decodes back to it. -/
theorem decodeByte_encode_of_decoder {i : Instr} (h : i.isEncoder = false) :
    ∃ b, encode i = .wire b ∧ decodeByte b = i := by
  cases i <;> simp only [Instr.isEncoder, Bool.true_eq_false] at h
  case noteOff ch => exact ⟨_, rfl, decodeByte_statusByte (by decide) ch⟩
  case noteOn ch => exact ⟨_, rfl, decodeByte_statusByte (by decide) ch⟩
  case polyPressure ch => exact ⟨_, rfl, decodeByte_statusByte (by decide) ch⟩
  case controlChange ch => exact ⟨_, rfl, decodeByte_statusByte (by decide) ch⟩
  case programChange ch => exact ⟨_, rfl, decodeByte_statusByte (by decide) ch⟩
  case channelPressure ch => exact ⟨_, rfl, decodeByte_statusByte (by decide) ch⟩
  case pitchBend ch => exact ⟨_, rfl, decodeByte_statusByte (by decide) ch⟩
  case data d => exact ⟨_, rfl, decodeByte_dataByte d⟩
  all_goals exact ⟨_, rfl, by decide⟩

/-- What any wire byte does to the decoder: the shared step of its class (R91 to R93, R120). -/
def byteStep (p : Params) (b : Byte) (S : DecoderState) : FeedOut :=
  if isStatus b then
    if opc b = 0xF#4 then systemStatusStep p b S else channelStatusStep b S
  else dataStep (dataValue b) S

/-- The codec after one byte on the decoder's stream. -/
def State.feedByte (s : State) (b : Byte) : State := s.putFeed (byteStep s.params b s.dec)

theorem exec_decodeByte (b : Byte) (s : State) : exec (decodeByte b) s = .next (s.feedByte b) := by
  unfold State.feedByte byteStep
  cases h : isStatus b with
  | true =>
    by_cases hf : opc b = 0xF#4
    · simpa [hf] using exec_decodeByte_systemStatus h hf s
    · simpa [hf] using exec_decodeByte_channelStatus h hf s
  | false => rw [decodeByte_of_data h, exec_data]; simp

/-- The step of a byte is the normative `feed` (R90), with the ghost names beside it. -/
theorem feed_eq_byteStep (p : Params) (S : DecoderState) (b : Byte) :
    feed p S b = ((byteStep p b S).state, (byteStep p b S).out) := by
  unfold feed byteStep
  rw [show b.getLsbD 7 = isStatus b from rfl]
  cases h : isStatus b with
  | true =>
    by_cases hf : opc b = 0xF#4
    · have hrt : rt p b = p.rtTable[(chan b).toNat]'(chan b).isLt := by simp [rt, isSystem, h, hf]
      obtain ⟨k, hk, he⟩ | ⟨hk, he⟩ := systemStatusStep_cases p b S <;>
        simp [hf, he, ← hrt, hk, DecoderState.cache]
    · simp [hf, channelStatusStep, DecoderState.cache]
  | false =>
    obtain ⟨hr, hd⟩ | ⟨s, hr, hs, hd⟩ | ⟨s, hr, hs, hd⟩ := dataStep_cases (dataValue b) S
    · simp [hr, hd]
    · simp [hr, hs, hd]
    · obtain ⟨hl, ha⟩ | ⟨hl, ha⟩ := appendStep_cases s (dataValue b) S <;>
        simp [hr, hs, hd, hl, ha]

/-! ### An encoder instruction as the result of its event -/

/-- What any port event gives at the encoder: the bytes of the normative `encode`, and `UnsupportedEvent` where
there are none (R77, R185). -/
def eventStep (p : Params) (e : PortEvent) : EncodeOut :=
  match encodeEvent (portToEvent p e) with
  | some g => ⟨some g, []⟩
  | none => encodeNothing

/-- The codec after one event on the encoder's stream. -/
def State.sendEvent (s : State) (e : PortEvent) : State := s.putEncode (eventStep s.params e)

/-! The forms of the results, with the bytes as the table of R77 writes them. -/

theorem encodeThree_masked {nib : Nibble} {ch : Chan} {st : Byte} (h : statusByte nib ch = st)
    (x y : Nat) :
    encodeThree nib ch (mask7 x) (mask7 y) = ⟨some [st, maskedByte x, maskedByte y], []⟩ := by
  rw [encodeThree, h, dataByte_mask7, dataByte_mask7]

theorem encodeTwo_masked {nib : Nibble} {ch : Chan} {st : Byte} (h : statusByte nib ch = st)
    (x : Nat) : encodeTwo nib ch (mask7 x) = ⟨some [st, maskedByte x], []⟩ := by
  rw [encodeTwo, h, dataByte_mask7]

theorem encodeThree_biased {nib : Nibble} {ch : Chan} {st : Byte} (h : statusByte nib ch = st)
    (v : Int) :
    encodeThree nib ch (low7 (biased14 v)) (high7 (biased14 v)) =
      ⟨some [st, bendByte1 v, bendByte2 v], []⟩ := by
  rw [encodeThree, h, dataByte_low7, dataByte_high7]

/-- R160: whatever `RT_TABLE` makes of the sub-code, an event of kind 0xF has no bytes. -/
theorem encodeEvent_of_system_kind (p : Params) (ch : Chan) (a b : Nat) (v : Int) :
    encodeEvent (portToEvent p ⟨0xF#4, ch, a, b, v⟩) = none := by
  cases h : rt p (statusByte 0xF#4 ch) <;> simp only [portToEvent, h] <;> rfl

/-- R73: the event kinds, one by one where they mean something, and those of `Other`. -/
theorem kind_cases (k : Nibble) :
    (k = 0x8#4 ∨ k = 0x9#4 ∨ k = 0xA#4 ∨ k = 0xB#4 ∨ k = 0xC#4 ∨ k = 0xD#4 ∨ k = 0xE#4 ∨ k = 0xF#4) ∨
    (k = 0x0#4 ∨ k = 0x1#4 ∨ k = 0x2#4 ∨ k = 0x3#4 ∨ k = 0x4#4 ∨ k = 0x5#4 ∨ k = 0x6#4 ∨ k = 0x7#4) := by
  revert k; decide

/-- An event whose instruction gives the result of its event is sent. -/
theorem exec_decodeEvent_of_result {e : PortEvent} {s : State} {r : EncodeOut}
    (hexec : exec (decodeEvent e) s = .next (s.putEncode r)) (hr : r = eventStep s.params e) :
    exec (decodeEvent e) s = .next (s.sendEvent e) := by
  rw [hexec, hr, State.sendEvent]

theorem exec_decodeEvent (e : PortEvent) (s : State) :
    exec (decodeEvent e) s = .next (s.sendEvent e) := by
  obtain ⟨k, ch, a, b, v⟩ := e
  obtain ⟨h8, h9, hA, hB, hC, hD, hE⟩ := statusByte_eq_sum ch
  obtain (rfl | rfl | rfl | rfl | rfl | rfl | rfl | rfl) | hk := kind_cases k
  · exact exec_decodeEvent_of_result rfl (encodeThree_masked h8 a b)
  · exact exec_decodeEvent_of_result rfl (encodeThree_masked h9 a b)
  · exact exec_decodeEvent_of_result rfl (encodeThree_masked hA a b)
  · exact exec_decodeEvent_of_result rfl (encodeThree_masked hB a b)
  · exact exec_decodeEvent_of_result rfl (encodeTwo_masked hC a)
  · exact exec_decodeEvent_of_result rfl (encodeTwo_masked hD a)
  · exact exec_decodeEvent_of_result rfl (encodeThree_biased hE v)
  · refine exec_decodeEvent_of_result rfl ?_
    rw [eventStep, encodeEvent_of_system_kind]
  · rcases hk with rfl | rfl | rfl | rfl | rfl | rfl | rfl | rfl <;> rfl

/-! ### Fields after a byte and after an event -/

section
variable (s : State) (b : Byte) (e : PortEvent)

@[simp] theorem State.feedByte_params : (s.feedByte b).params = s.params := rfl
@[simp] theorem State.feedByte_input : (s.feedByte b).input = s.input := rfl
@[simp] theorem State.feedByte_wireOut : (s.feedByte b).wireOut = s.wireOut := rfl

@[simp] theorem State.feedByte_dec : (s.feedByte b).dec = (feed s.params s.dec b).1 := by
  rw [feed_eq_byteStep]; rfl

@[simp] theorem State.feedByte_evOut :
    (s.feedByte b).evOut = s.evOut ++ (feed s.params s.dec b).2.toList := by
  rw [feed_eq_byteStep]; rfl

@[simp] theorem State.sendEvent_params : (s.sendEvent e).params = s.params := rfl
@[simp] theorem State.sendEvent_dec : (s.sendEvent e).dec = s.dec := rfl
@[simp] theorem State.sendEvent_input : (s.sendEvent e).input = s.input := rfl
@[simp] theorem State.sendEvent_evOut : (s.sendEvent e).evOut = s.evOut := rfl

@[simp] theorem eventStep_bytes (p : Params) :
    (eventStep p e).bytes = encodeEvent (portToEvent p e) := by
  unfold eventStep
  cases encodeEvent (portToEvent p e) <;> rfl

@[simp] theorem State.sendEvent_wireOut :
    (s.sendEvent e).wireOut =
      s.wireOut ++ (encodeEvent (portToEvent s.params e)).toList := by
  simp [State.sendEvent]

end

/-! ### Many bytes, many events -/

/-- The codec after a list of bytes on the decoder's stream. -/
def State.feedBytes (s : State) (bs : List Byte) : State := bs.foldl State.feedByte s

/-- The codec after a list of events on the encoder's stream. -/
def State.sendEvents (s : State) (es : List PortEvent) : State := es.foldl State.sendEvent s

theorem State.feedBytes_cons (s : State) (b : Byte) (bs : List Byte) :
    s.feedBytes (b :: bs) = (s.feedByte b).feedBytes bs := rfl

theorem State.sendEvents_cons (s : State) (e : PortEvent) (es : List PortEvent) :
    s.sendEvents (e :: es) = (s.sendEvent e).sendEvents es := rfl

/-- R214: the decoder's half after a run of bytes is `feed` folded over them; the encoder's half stays. -/
theorem State.feedBytes_fields (s : State) (bs : List Byte) :
    (s.feedBytes bs).params = s.params ∧ (s.feedBytes bs).input = s.input ∧
      (s.feedBytes bs).dec = feedState s.params s.dec bs ∧
      (s.feedBytes bs).evOut = s.evOut ++ feedEvents s.params s.dec bs ∧
      (s.feedBytes bs).wireOut = s.wireOut := by
  induction bs generalizing s with
  | nil => simp [State.feedBytes, feedState, feedEvents]
  | cons b bs ih =>
    obtain ⟨hp, hi, hd, he, hw⟩ := ih (s.feedByte b)
    rw [State.feedBytes_cons]
    refine ⟨hp, hi, by simpa [feedState, feedTrace_cons] using hd, ?_, hw⟩
    rw [he]
    cases h : (feed s.params s.dec b).2 <;> simp [feedEvents, feedTrace_cons, h]

/-- R50: the encoder's half after a run of events is the groups of `encode`, in order; the decoder's half stays. -/
theorem State.sendEvents_fields (s : State) (es : List PortEvent) :
    (s.sendEvents es).params = s.params ∧ (s.sendEvents es).input = s.input ∧
      (s.sendEvents es).dec = s.dec ∧ (s.sendEvents es).evOut = s.evOut ∧
      (s.sendEvents es).wireOut = s.wireOut ++
        (es.map fun e => encodeEvent (portToEvent s.params e)).reduceOption := by
  induction es generalizing s with
  | nil => simp [State.sendEvents]
  | cons e es ih =>
    obtain ⟨hp, hi, hd, he, hw⟩ := ih (s.sendEvent e)
    rw [State.sendEvents_cons]
    refine ⟨hp, hi, hd, he, ?_⟩
    rw [hw]
    cases h : encodeEvent (portToEvent s.params e) <;> simp [h]

/-! ### The two halves commute -/

/-- R49: a decoder step reads and writes nothing that an encoder call writes, and the other way round. -/
theorem State.putFeed_putEncode (s : State) (f : FeedOut) (r : EncodeOut) :
    (s.putFeed f).putEncode r = (s.putEncode r).putFeed f := rfl

theorem State.feedByte_sendEvent (s : State) (b : Byte) (e : PortEvent) :
    (s.sendEvent e).feedByte b = (s.feedByte b).sendEvent e :=
  (State.putFeed_putEncode s _ _).symm

/-- An event may be sent after any bytes or before them. -/
theorem State.feedBytes_sendEvent (s : State) (bs : List Byte) (e : PortEvent) :
    (s.sendEvent e).feedBytes bs = (s.feedBytes bs).sendEvent e :=
  List.foldl_hom (fun s : State => s.sendEvent e) fun s b => State.feedByte_sendEvent s b e

/-- R49 for single instructions: a decoder and an encoder instruction in either order. -/
theorem execAll_decoder_encoder_comm {i j : Instr} (hi : i.isEncoder = false)
    (hj : j.isEncoder = true) (s : State) :
    ∃ t, execAll [i, j] s = .next t ∧ execAll [j, i] s = .next t := by
  obtain ⟨b, -, rfl⟩ := decodeByte_encode_of_decoder hi
  obtain ⟨r, hr, -⟩ := exec_encoder_cases hj
  refine ⟨(s.feedByte b).putEncode r, ?_, ?_⟩
  · rw [execAll_cons_next (exec_decodeByte b s), execAll_cons_next (hr _), execAll_nil]
  · rw [execAll_cons_next (hr s), execAll_cons_next (exec_decodeByte b _), execAll_nil]
    exact congrArg Host.Outcome.next (State.putFeed_putEncode s _ r).symm

/-! ### A run of any interleaving -/

/-- R41, R48: a word at the head of the input is taken once and run. -/
theorem step_of_word {s : State} {w : InWord} {rest : List InItem} {i : Instr}
    (hin : s.input = .word w :: rest) (hw : decode s.params w = .ok i) :
    step s = exec i { s with input := rest } := by
  simp [step, fetch, hin, hw]

theorem step_of_wire {s : State} {b : Byte} {rest : List InItem}
    (hin : s.input = .word (.wire b) :: rest) :
    step s = .next ({ s with input := rest }.feedByte b) := by
  rw [step_of_word hin rfl, exec_decodeByte]

theorem step_of_event {s : State} {e : PortEvent} {rest : List InItem}
    (hin : s.input = .word (.event e) :: rest) (hfit : e.misfit s.params = none) :
    step s = .next ({ s with input := rest }.sendEvent e) := by
  have hw : decode s.params (.event e) = .ok (decodeEvent e) := by simp [decode, hfit]
  rw [step_of_word hin hw, exec_decodeEvent]

/-- R49: an input without reset line runs, in whatever order its two streams are interleaved, to the state that
all its bytes and then all its events give. -/
theorem runSteps_eq_feedBytes_sendEvents (l : List InItem) (s : State) (hrst : .rst ∉ l)
    (hfit : InputFits s.params l) :
    runSteps l.length { s with input := l } =
      .next (({ s with input := [] }.feedBytes (inputBytes l)).sendEvents (inputEvents l)) := by
  induction l generalizing s with
  | nil => rfl
  | cons x l ih =>
    have hrst' : .rst ∉ l := fun h => hrst (List.mem_cons_of_mem _ h)
    match x with
    | .rst => exact absurd List.mem_cons_self hrst
    | .word (.wire b) =>
      rw [List.length_cons, runSteps_succ_next (step_of_wire rfl)]
      exact ih (s.feedByte b) hrst' hfit
    | .word (.event e) =>
      obtain ⟨he, hfit'⟩ := List.forall_mem_cons.1 hfit
      have hstep := step_of_event (s := { s with input := .word (.event e) :: l }) rfl he
      rw [List.length_cons, runSteps_succ_next hstep, inputEvents, inputBytes,
        State.sendEvents_cons, ← State.feedBytes_sendEvent]
      exact ih (s.sendEvent e) hrst' hfit'

/-! ### The obligation -/

/-- Settles O47: two interleavings of the same streams end in the one state that the bytes and then the events
give, because a decoder step and an encoder call commute. -/
theorem decoderAndEncoderCommute : Obligations.DecoderAndEncoderCommute := by
  refine ⟨fun i j s hi hj => execAll_decoder_encoder_comm hi hj s,
    fun s l l' hl hl' hfit hbytes hevents => ?_⟩
  have hfit' : InputFits s.params l' := by rwa [InputFits, ← hevents]
  obtain ⟨hp, -, -, hev, hwire⟩ := State.feedBytes_fields { s with input := [] } (inputBytes l)
  obtain ⟨-, -, -, hev', hwire'⟩ :=
    State.sendEvents_fields ({ s with input := [] }.feedBytes (inputBytes l)) (inputEvents l)
  refine ⟨_, runSteps_eq_feedBytes_sendEvents l s hl hfit, ?_, hev'.trans hev, ?_⟩
  · rw [runSteps_eq_feedBytes_sendEvents l' s hl' hfit', hbytes, hevents]
  · rw [hwire', hwire, hp, List.length_append, List.reduceOption_length_eq, List.filter_map,
      List.length_map]
    rfl

end Sys2Proof.Machine
end

section
/-! PROOF. The pitch-bend operand (R69): a 14-bit biased value and its two 7-bit halves determine each other, so
what the decoder assembles and what the encoder splits are inverse. Then what a data byte under a channel-voice
status does to the whole state (R94), and the two bytes of a pitch bend after its status byte. -/

namespace Sys2Proof.Machine

/-! ### The two halves of a biased value -/

theorem low7_toNat (u : BitVec 14) : (low7 u).toNat = u.toNat % 128 := by
  simp [low7, BitVec.extractLsb'_toNat]

theorem high7_toNat (u : BitVec 14) : (high7 u).toNat = u.toNat / 128 := by
  have h : u.toNat < 16384 := u.isLt
  simp only [high7, BitVec.extractLsb'_toNat, Nat.shiftRight_eq_div_pow]
  omega

/-- R69: a biased value is its low half plus 128 times its high half. -/
theorem toNat_eq_low7_add_high7 (u : BitVec 14) :
    u.toNat = (low7 u).toNat + 128 * (high7 u).toNat := by
  rw [low7_toNat, high7_toNat]
  exact (Nat.mod_add_div u.toNat 128).symm

/-- In the range of R69 the bias wraps nothing. -/
theorem biased14_toNat_of_range {v : Int} (hlo : -8192 ≤ v) (hhi : v ≤ 8191) :
    ((biased14 v).toNat : Int) = v + 8192 := by
  rw [biased14_toNat, Int.emod_eq_of_lt] <;> omega

/-! ### Assembling and splitting are inverse -/

/-- R69: the assembled value lies in -8192..8191. -/
theorem bendValue_range (a b : Data7) : -8192 ≤ bendValue a b ∧ bendValue a b ≤ 8191 := by
  have ha : a.toNat < 128 := a.isLt
  have hb : b.toNat < 128 := b.isLt
  rw [bendValue_eq]
  omega

/-- R69: the masks of the source's expression change nothing. -/
theorem bendValue_eq_masked (a b : Data7) :
    bendValue a b =
      ((a.toNat &&& 0x7F : Nat) : Int) + (((b.toNat &&& 0x7F) <<< 7 : Nat) : Int) - 8192 := by
  have mask (d : Data7) : d.toNat &&& 0x7F = d.toNat := by
    rw [Nat.and_two_pow_sub_one_eq_mod d.toNat 7, Nat.mod_eq_of_lt d.isLt]
  rw [bendValue_eq, mask, mask, Nat.shiftLeft_eq]
  omega

/-- The biased value of an assembled one, as a number. -/
theorem biased14_bendValue_toNat (a b : Data7) :
    (biased14 (bendValue a b)).toNat = a.toNat + 128 * b.toNat := by
  obtain ⟨hlo, hhi⟩ := bendValue_range a b
  have h := biased14_toNat_of_range hlo hhi
  rw [bendValue_eq] at h ⊢
  omega

@[simp] theorem low7_biased14_bendValue (a b : Data7) : low7 (biased14 (bendValue a b)) = a := by
  have ha : a.toNat < 128 := a.isLt
  apply BitVec.eq_of_toNat_eq
  rw [low7_toNat, biased14_bendValue_toNat]
  omega

@[simp] theorem high7_biased14_bendValue (a b : Data7) : high7 (biased14 (bendValue a b)) = b := by
  have ha : a.toNat < 128 := a.isLt
  apply BitVec.eq_of_toNat_eq
  rw [high7_toNat, biased14_bendValue_toNat]
  omega

/-- R69: in range, assembling the halves of a value gives it back. -/
theorem bendValue_low7_high7 {v : Int} (hlo : -8192 ≤ v) (hhi : v ≤ 8191) :
    bendValue (low7 (biased14 v)) (high7 (biased14 v)) = v := by
  have h := biased14_toNat_of_range hlo hhi
  rw [toNat_eq_low7_add_high7] at h
  rw [bendValue_eq]
  omega

/-! ### A pitch-bend event at the encoder -/

/-- The data byte with a value, as a number (R68). -/
theorem ofNat_toNat_eq_dataByte (d : Data7) : BitVec.ofNat 8 d.toNat = dataByte d := by
  rw [← dataByte_toNat, BitVec.ofNat_toNat, BitVec.setWidth_eq]

/-- R159: status byte, low half, high half. -/
theorem exec_encPitchBend (ch : Chan) (v : Int) (s : State) :
    exec (.encPitchBend ch v) s = .next { s with wireOut := s.wireOut ++
      [[statusSum 0xE0 ch, dataByte (low7 (biased14 v)), dataByte (high7 (biased14 v))]] } := by
  obtain ⟨-, -, -, -, -, -, hE⟩ := statusByte_eq_sum ch
  rw [← hE]
  simp [exec, execEncPitchBend, State.putEncode, encodeThree]

/-! ### A data byte under a channel-voice status (R94) -/

section
variable {st : Byte} {s : State}

/-- R94: a data byte that does not complete the message is collected. -/
theorem exec_data_collected (hrs : s.dec.runningStatus = some st) (hst : opc st ≠ 0xF#4)
    {d : Data7} (hlen : s.dec.collected.length + 1 ≠ s.dec.expectedCount.val) :
    exec (.data d) s =
      .next { s with dec := { s.dec with collected := s.dec.collected ++ [d] } } := by
  simp [exec_data, dataStep, hrs, hst, appendStep, hlen, State.putFeed]

/-- R94: a data byte that completes the message empties `collected` and emits the assembled event. -/
theorem exec_data_completing (hrs : s.dec.runningStatus = some st) (hst : opc st ≠ 0xF#4)
    {d : Data7} (hlen : s.dec.collected.length + 1 = s.dec.expectedCount.val)
    {ev : MidiEvent} (hev : assemble st (s.dec.collected ++ [d]) = some ev) :
    exec (.data d) s = .next { s with dec := { s.dec with collected := [] },
                                      evOut := s.evOut ++ [ev] } := by
  simp [exec_data, dataStep, hrs, hst, appendStep, hlen, hev, State.putFeed]

end

/-! ### A pitch bend at the decoder -/

theorem opc_statusSum_pitchBend (ch : Chan) : opc (statusSum 0xE0 ch) = 0xE#4 := by
  revert ch; decide

theorem chan_statusSum_pitchBend (ch : Chan) : chan (statusSum 0xE0 ch) = ch := by
  revert ch; decide

theorem opc_statusSum_pitchBend_ne (ch : Chan) : opc (statusSum 0xE0 ch) ≠ 0xF#4 := by
  rw [opc_statusSum_pitchBend]; decide

/-- R102: the event of a complete pitch bend. -/
theorem assemble_pitchBend (ch : Chan) (a b : Data7) :
    assemble (statusSum 0xE0 ch) [a, b] = some (.pitchBend ch (bendValue a b)) := by
  simp [assemble, opc_statusSum_pitchBend, chan_statusSum_pitchBend]

/-- R92, R102: the status byte of a pitch bend is cached, with two data bytes to come. -/
theorem exec_pitchBend (ch : Chan) (s : State) :
    exec (.pitchBend ch) s = .next (s.cached (statusSum 0xE0 ch) 2 [] []) := by
  obtain ⟨-, -, -, -, -, -, hE⟩ := statusByte_eq_sum ch
  rw [← hE]
  simp [exec, execPitchBend, State.putFeed, channelStatusStep, State.cached, DecoderState.cache,
    DecoderState.abandoned_eq, dlen]

/-- R94, R102: the second data byte of a pitch bend emits its event. -/
theorem exec_data_pitchBend {ch : Chan} {a : Data7} {s : State}
    (hrs : s.dec.runningStatus = some (statusSum 0xE0 ch)) (hcol : s.dec.collected = [a])
    (hexp : s.dec.expectedCount = 2) (b : Data7) :
    exec (.data b) s = .next { s with dec := { s.dec with collected := [] },
                                      evOut := s.evOut ++ [.pitchBend ch (bendValue a b)] } := by
  refine exec_data_completing hrs (opc_statusSum_pitchBend_ne ch) ?_ ?_
  · rw [hcol, hexp]; rfl
  · rw [hcol]; exact assemble_pitchBend ch a b

/-- R102: a whole pitch bend, from any state. -/
theorem execAll_pitchBend (ch : Chan) (a b : Data7) (s : State) :
    execAll [.pitchBend ch, .data a, .data b] s =
      .next (s.cached (statusSum 0xE0 ch) 2 [.pitchBend ch (bendValue a b)] []) := by
  have hfirst := exec_data_collected (s := s.cached (statusSum 0xE0 ch) 2 [] []) (d := a)
    rfl (opc_statusSum_pitchBend_ne ch) (by decide : 0 + 1 ≠ 2)
  rw [execAll_cons_next (exec_pitchBend ch s), execAll_cons_next hfirst,
    execAll_cons_next (exec_data_pitchBend rfl rfl rfl b)]
  simp [State.cached]

/-! ### The obligation -/

/-- Settles O41: the halves of a biased value and the assembled value determine each other, so the encoder's two
data bytes of a decoded value are the decoder's own, and a value in range comes back from its two data bytes. -/
theorem pitchBendOperandBothWays : Obligations.PitchBendOperandBothWays := by
  refine ⟨fun ch a b s hrs hcol hexp => ?_, fun ch v s hlo hhi => ?_, fun ch s => ?_⟩
  · obtain ⟨hlo, hhi⟩ := bendValue_range a b
    refine ⟨bendValue a b, bendValue_eq_masked a b, hlo, hhi,
      exec_data_pitchBend hrs hcol hexp b, fun t => ?_⟩
    rw [exec_encPitchBend, low7_biased14_bendValue, high7_biased14_bendValue]
  · have hu := biased14_toNat_of_range hlo hhi
    refine ⟨(biased14 v).toNat, (low7 (biased14 v)).toNat, (high7 (biased14 v)).toNat, hu,
      Nat.le_of_lt_succ (biased14 v).isLt, (low7 (biased14 v)).isLt, (high7 (biased14 v)).isLt,
      toNat_eq_low7_add_high7 _, ?_, ?_⟩
    · rw [ofNat_toNat_eq_dataByte, ofNat_toNat_eq_dataByte, exec_encPitchBend]
    · rw [BitVec.ofNat_toNat, BitVec.ofNat_toNat, BitVec.setWidth_eq, BitVec.setWidth_eq,
        execAll_pitchBend, bendValue_low7_high7 hlo hhi]
  · rw [exec_encPitchBend]
    rfl

end Sys2Proof.Machine
end

section
/-! PROOF. The seek (R95): data bytes that the decoder discards leave only their ghost names, however many, and
`running_status`, once present, stays present under every instruction. -/

namespace Sys2Proof.Machine

/-! ### Discarded data bytes -/

/-- Where a data byte is discarded under one name, so is any number of them, each with that name. -/
theorem execAll_data_discarded {s : State} {a : Anomaly}
    (h : ∀ d, dataStep d s.dec = ⟨s.dec, none, [a]⟩) (ds : List Data7) :
    execAll (ds.map Instr.data) s =
      .next { s with decAnomalies := s.decAnomalies ++ List.replicate ds.length a } := by
  induction ds generalizing s with
  | nil => simp
  | cons d ds ih =>
    have hfirst : exec (.data d) s = .next { s with decAnomalies := s.decAnomalies ++ [a] } := by
      simp [exec_data, h, State.putFeed]
    have hrest := ih (s := { s with decAnomalies := s.decAnomalies ++ [a] }) h
    rw [List.map_cons, execAll_cons_next hfirst, hrest]
    simp [List.replicate_succ]

/-- R93, R95: before the first status byte a data byte is an orphan. -/
theorem dataStep_of_none {S : DecoderState} (h : S.runningStatus = none) (d : Data7) :
    dataStep d S = ⟨S, none, [.orphanData]⟩ := by
  simp [dataStep, h]

/-! ### A present register -/

/-- R30: only the reset line makes `running_status` absent, and it is no instruction. -/
theorem exec_runningStatus_ne_none {i : Instr} {s t : State} (h : s.dec.runningStatus ≠ none)
    (hexec : exec i s = .next t) : t.dec.runningStatus ≠ none := by
  cases hi : i.isEncoder with
  | true =>
    obtain ⟨r, hr, -⟩ := exec_encoder_cases hi
    obtain rfl : s.putEncode r = t := by simpa [hr] using hexec
    exact h
  | false =>
    obtain ⟨b, -, rfl⟩ := decodeByte_encode_of_decoder hi
    obtain ⟨u, hu, hrs⟩ := exec_decodeByte_runningStatus b s
    obtain rfl : u = t := by simpa [hu] using hexec
    rw [hrs]
    split
    · simp
    · exact h

/-! ### The obligation -/

/-- Settles O22: every data byte is discarded as an orphan until the first status byte, which is cached and is
never made absent again. -/
theorem seekEndsAtTheFirstStatusByte : Obligations.SeekEndsAtTheFirstStatusByte := by
  refine ⟨fun ds b s hrs hb => ?_, fun i s t => exec_runningStatus_ne_none⟩
  have hseek := execAll_data_discarded (dataStep_of_none hrs) ds
  obtain ⟨t, ht, htrs⟩ := exec_decodeByte_runningStatus b
    { s with decAnomalies := s.decAnomalies ++ List.replicate ds.length .orphanData }
  refine ⟨hseek, t, ?_, by rw [htrs, if_pos hb]⟩
  rw [execAll_append hseek, execAll_cons_next ht, execAll_nil]

end Sys2Proof.Machine
end

section
/-! PROOF. Pairs of data bytes under a two-parameter status: any number of them emits one event each and leaves
the registers as they were (R70, R94). Then the `NoteOn` family (R97), at the decoder and at the encoder. -/

namespace Sys2Proof.Machine

/-! ### Pairs of data bytes under a channel-voice status -/

section
variable {st : Byte} {s : State}

/-- R94: between messages, two data bytes emit their event and leave the registers as they were. -/
theorem execAll_data_pair (hrs : s.dec.runningStatus = some st) (hst : opc st ≠ 0xF#4)
    (hcol : s.dec.collected = []) (hexp : s.dec.expectedCount = 2) {a b : Data7} {ev : MidiEvent}
    (hev : assemble st [a, b] = some ev) (is : List Instr) :
    execAll (.data a :: .data b :: is) s = execAll is { s with evOut := s.evOut ++ [ev] } := by
  have hfirst := exec_data_collected (d := a) hrs hst (by simp [hcol, hexp])
  have hsecond := exec_data_completing (d := b) (ev := ev)
    (s := { s with dec := { s.dec with collected := s.dec.collected ++ [a] } })
    hrs hst (by simp [hcol, hexp]) (by simpa [hcol] using hev)
  rw [execAll_cons_next hfirst, execAll_cons_next hsecond, ← hcol]

/-- R70, R94: any number of pairs emits the event of each, in order. -/
theorem execAll_data_pairs (hrs : s.dec.runningStatus = some st) (hst : opc st ≠ 0xF#4)
    (hcol : s.dec.collected = []) (hexp : s.dec.expectedCount = 2) {f : Data7 → Data7 → MidiEvent}
    (hf : ∀ x y, assemble st [x, y] = some (f x y)) (pairs : List (Data7 × Data7)) :
    execAll (pairs.flatMap fun q => [.data q.1, .data q.2]) s =
      .next { s with evOut := s.evOut ++ pairs.map fun q => f q.1 q.2 } := by
  induction pairs generalizing s with
  | nil => simp
  | cons q pairs ih =>
    have hpair := execAll_data_pair hrs hst hcol hexp (hf q.1 q.2)
    have hrest := ih (s := { s with evOut := s.evOut ++ [f q.1 q.2] }) hrs hcol hexp
    simpa using (hpair _).trans hrest

end

/-! ### NoteOn -/

theorem statusSum_noteOn (ch : Chan) : statusSum 0x90 ch = statusByte 0x9#4 ch := by
  obtain ⟨-, h9, -⟩ := statusByte_eq_sum ch
  exact h9.symm

theorem opc_statusSum_noteOn_ne (ch : Chan) : opc (statusSum 0x90 ch) ≠ 0xF#4 := by
  rw [statusSum_noteOn, opc_statusByte]; decide

/-- R97: the event of a complete `NoteOn`, whatever its velocity. -/
theorem assemble_noteOn (ch : Chan) (a b : Data7) :
    assemble (statusSum 0x90 ch) [a, b] = some (.noteOn ch a.toNat b.toNat) := by
  simp [statusSum_noteOn, assemble]

/-- R92, R97: the status byte of a `NoteOn` is cached, with two data bytes to come. -/
theorem exec_noteOn (ch : Chan) (s : State) :
    exec (.noteOn ch) s = .next (s.cached (statusSum 0x90 ch) 2 [] []) := by
  simp [statusSum_noteOn, exec, execNoteOn, State.putFeed, channelStatusStep, State.cached,
    DecoderState.cache, DecoderState.abandoned_eq, dlen]

/-- R97: a `NoteOn` status and any number of pairs, from any state. -/
theorem execAll_noteOn_pairs (ch : Chan) (pairs : List (Data7 × Data7)) (s : State) :
    execAll (.noteOn ch :: pairs.flatMap fun q => [.data q.1, .data q.2]) s =
      .next (s.cached (statusSum 0x90 ch) 2
        (pairs.map fun q => .noteOn ch q.1.toNat q.2.toNat) []) := by
  rw [execAll_cons_next (exec_noteOn ch s),
    execAll_data_pairs rfl (opc_statusSum_noteOn_ne ch) rfl rfl (assemble_noteOn ch)]
  simp [State.cached]

/-- R68: a data byte's value is its own low seven bits. -/
@[simp] theorem mask7_toNat (d : Data7) : mask7 d.toNat = d := by
  simp [mask7]

/-- R154: a `NoteOn` with parameters below 128 is its status byte and its pair. -/
theorem exec_encNoteOn (ch : Chan) (a b : Data7) (s : State) :
    exec (.encNoteOn ch a.toNat b.toNat) s = .next { s with wireOut := s.wireOut ++
      [[statusSum 0x90 ch, dataByte a, dataByte b]] } := by
  simp [statusSum_noteOn, exec, execEncNoteOn, State.putEncode, encodeThree]

/-! ### The obligation -/

/-- Settles O29: the pairs after a `NoteOn` status emit one event each and leave the registers between messages,
so a further data byte is collected; the encoder gives each event its status byte and its pair back. -/
theorem noteOnPairsDecodeAndReencode : Obligations.NoteOnPairsDecodeAndReencode := by
  refine fun ch pairs s => ⟨exec_noteOn ch s, execAll_noteOn_pairs ch pairs s, fun a => ?_,
    fun a b t => exec_encNoteOn ch a b t⟩
  have hlast := exec_data_collected (d := a)
    (s := s.cached (statusSum 0x90 ch) 2 (pairs.map fun q => .noteOn ch q.1.toNat q.2.toNat) [])
    rfl (opc_statusSum_noteOn_ne ch) (by decide : 0 + 1 ≠ 2)
  rw [execAll_append (execAll_noteOn_pairs ch pairs s), execAll_cons_next hlast, execAll_nil]
  rfl

end Sys2Proof.Machine
end

section
/-! PROOF. The bytes of an encoded event (R151, R152, R153 to R158): what a group lands as, the data bytes as
numbers, and from these the masking law and the three-byte and two-byte families. -/

namespace Sys2Proof.Machine

/-! ### A group of bytes lands -/

/-- R50: a result with bytes and no anomaly is one more group on the wire, and nothing else. -/
theorem State.putEncode_group (s : State) (g : List Byte) :
    s.putEncode ⟨some g, []⟩ = { s with wireOut := s.wireOut ++ [g] } := by
  simp [State.putEncode]

/-- An encoder instruction whose result is a group appends that group to the wire. -/
theorem exec_of_group {i : Instr} {s : State} {r : EncodeOut} {g : List Byte}
    (hexec : exec i s = .next (s.putEncode r)) (hr : r = ⟨some g, []⟩) :
    exec i s = .next { s with wireOut := s.wireOut ++ [g] } := by
  rw [hexec, hr, State.putEncode_group]

/-! ### The data bytes of a pitch bend as numbers -/

/-- R69, R152: the first data byte, of any integer value. -/
theorem bendByte1_toNat (v : Int) : ((bendByte1 v).toNat : Int) = (v + 8192) % 128 := by
  simp only [bendByte1, BitVec.toNat_ofNat]
  omega

/-- R69, R152: the second data byte, of any integer value. -/
theorem bendByte2_toNat (v : Int) :
    ((bendByte2 v).toNat : Int) = ((v + 8192) >>> (7 : Nat)) % 128 := by
  simp only [bendByte2, BitVec.toNat_ofNat]
  omega

theorem bendByte1_lt (v : Int) : (bendByte1 v).toNat < 128 := by
  have h := bendByte1_toNat v
  omega

theorem bendByte2_lt (v : Int) : (bendByte2 v).toNat < 128 := by
  have h := bendByte2_toNat v
  omega

/-- R152: a parameter in 0..127 goes through unchanged. -/
theorem maskedByte_toNat_of_lt {n : Nat} (h : n < 128) : (maskedByte n).toNat = n := by
  rw [maskedByte_toNat, Nat.mod_eq_of_lt h]

/-! ### The masking law -/

/-- Settles O43: the bytes are the masked parameters of the table of R77, and the halves of a biased value. -/
theorem dataBytesAreMaskedParameters : Obligations.DataBytesAreMaskedParameters := by
  refine fun ch m n v s => ⟨maskedByte m, maskedByte n, bendByte1 v, bendByte2 v,
    maskedByte_toNat m, maskedByte_toNat n, maskedByte_toNat_of_lt, maskedByte_toNat_of_lt,
    bendByte1_lt v, bendByte2_lt v, fun _ _ => ⟨bendByte1_toNat v, bendByte2_toNat v⟩,
    ?noteOff, ?noteOn, ?polyPressure, ?controlChange, ?programChange, ?channelPressure, ?pitchBend⟩
  case noteOff => exact exec_of_group rfl (encodeThree_masked rfl m n)
  case noteOn => exact exec_of_group rfl (encodeThree_masked rfl m n)
  case polyPressure => exact exec_of_group rfl (encodeThree_masked rfl m n)
  case controlChange => exact exec_of_group rfl (encodeThree_masked rfl m n)
  case programChange => exact exec_of_group rfl (encodeTwo_masked rfl m)
  case channelPressure => exact exec_of_group rfl (encodeTwo_masked rfl m)
  case pitchBend => exact exec_of_group rfl (encodeThree_biased rfl v)

/-! ### The kinds of the channel-voice families -/

/-- R71, R73: an event the port can carry decodes by its kind. -/
theorem decode_event_of_fits {p : Params} {e : PortEvent} {i : Instr} (hfit : e.misfit p = none)
    (hi : decodeEvent e = i) : decode p (.event e) = .ok i := by
  simp [decode, hfit, hi]

/-- Settles O38: each kind selects its instruction, and the group of each is the status byte as a sum with the two
masked parameters. -/
theorem encodesTwoParametersInThreeBytes : Obligations.EncodesTwoParametersInThreeBytes := by
  refine ⟨fun p e hfit => ?_, fun ch x y s => ?_⟩
  · refine ⟨fun hk => ?_, fun hk => ?_, fun hk => ?_, fun hk => ?_⟩ <;>
      exact decode_event_of_fits hfit (by simp [decodeEvent, hk])
  · obtain ⟨h8, h9, hA, hB, -⟩ := statusByte_eq_sum ch
    exact ⟨exec_of_group rfl (encodeThree_masked h8 x y), exec_of_group rfl (encodeThree_masked h9 x y),
      exec_of_group rfl (encodeThree_masked hA x y), exec_of_group rfl (encodeThree_masked hB x y)⟩

/-- R75, R165: the pins of a one-parameter event have no place for `b` or `bend`. -/
theorem encPins_one_parameter {dw bw : Nat} {k : BitVec 4} (hk : k = 0xC ∨ k = 0xD) (c : BitVec 4)
    (a b : BitVec dw) (bend : BitVec bw) :
    encPins ⟨true, ⟨k, c, a, b, bend⟩⟩ = ⟨2, k ++ c, 0#1 ++ a.extractLsb' 0 7, 0⟩ := by
  rcases hk with rfl | rfl <;> rfl

/-- Settles O39: each kind selects its instruction, the group of each is the status byte as a sum with the one
masked parameter, and the pins do not mention the second. -/
theorem encodesOneParameterInTwoBytes : Obligations.EncodesOneParameterInTwoBytes := by
  refine ⟨fun p e hfit => ?_, fun ch x s => ?_, fun dw bw k c a b b' bend hk => ?_⟩
  · refine ⟨fun hk => ?_, fun hk => ?_⟩ <;>
      exact decode_event_of_fits hfit (by simp [decodeEvent, hk])
  · obtain ⟨-, -, -, -, hC, hD, -⟩ := statusByte_eq_sum ch
    exact ⟨exec_of_group rfl (encodeTwo_masked hC x), exec_of_group rfl (encodeTwo_masked hD x)⟩
  · rw [encPins_one_parameter hk, encPins_one_parameter hk]
    exact ⟨rfl, rfl, rfl⟩

end Sys2Proof.Machine
end

section
/-! PROOF. A data byte before the first status byte (R182). -/

namespace Sys2Proof.Machine

/-- A feed that leaves the registers alone and only reports an anomaly is one more name in the ghost log. -/
theorem State.putFeed_anomaly (s : State) (a : Anomaly) :
    s.putFeed ⟨s.dec, none, [a]⟩ = { s with decAnomalies := s.decAnomalies ++ [a] } := by
  simp [State.putFeed]

/-- Settles O21: without a cached status the step of a data byte is the orphan's, which only reports its name. -/
theorem orphanDataChangesNothing : Obligations.OrphanDataChangesNothing := by
  intro d s hrs
  rw [exec_data, dataStep_of_none hrs, State.putFeed_anomaly]

end Sys2Proof.Machine
end

section
/-! PROOF. Words and instructions (30_encoding.md): the decoder and the encoder of instruction words are inverse to
each other, agent by agent, and the opcode table has one row for each word. -/

namespace Sys2Proof.Machine

/-! ### The words the port can carry -/

/-- R8, U10: the check of a port event field by field. -/
theorem misfit_eq_none_iff (p : Params) (e : PortEvent) :
    e.misfit p = none ↔ p.fitsData e.a = true ∧ p.fitsData e.b = true ∧ p.fitsBend e.bend = true := by
  unfold PortEvent.misfit
  cases p.fitsData e.a <;> cases p.fitsData e.b <;> cases p.fitsBend e.bend <;> simp

theorem decode_event_eq_ok_iff {p : Params} {e : PortEvent} {i : Instr} :
    decode p (.event e) = .ok i ↔ e.misfit p = none ∧ decodeEvent e = i := by
  cases h : e.misfit p <;> simp [decode, h]

/-- Settles O6: the check of a port event is the three bounds of its numbers. -/
theorem onlyMisfitEventsAreRejected : Obligations.OnlyMisfitEventsAreRejected := by
  refine ⟨fun p b => ⟨decodeByte b, rfl⟩, fun p e => ?_⟩
  simp [decode_event_eq_ok_iff, misfit_eq_none_iff, Params.fitsData, Params.fitsBend]

/-! ### From an instruction to its word and back -/

/-- R208: the word of a well-formed instruction is one the port can carry. -/
theorem presentable_of_wf (i : Instr) : Laws.Presentable.Statement i := by
  cases h : i.isEncoder with
  | false =>
    obtain ⟨b, hb, -⟩ := decodeByte_encode_of_decoder h
    exact Laws.Presentable.of_wire hb
  | true =>
    cases i <;> simp only [Instr.isEncoder, Bool.false_eq_true] at h
    case encNoteOff ch a b => exact Laws.Presentable.encNoteOff ch a b
    case encNoteOn ch a b => exact Laws.Presentable.encNoteOn ch a b
    case encPolyPressure ch a b => exact Laws.Presentable.encPolyPressure ch a b
    case encControlChange ch a b => exact Laws.Presentable.encControlChange ch a b
    case encProgramChange ch a => exact Laws.Presentable.encProgramChange ch a
    case encChannelPressure ch a => exact Laws.Presentable.encChannelPressure ch a
    case encPitchBend ch v => exact Laws.Presentable.encPitchBend ch v
    case encSystemRealtime sub => exact Laws.Presentable.encSystemRealtime sub
    case encOther k => exact Laws.Presentable.encOther k

/-- R73: an encoder instruction's word is a port event that decodes back to it. -/
theorem decodeEvent_encode_of_encoder {i : Instr} (h : i.isEncoder = true) :
    ∃ e, encode i = .event e ∧ decodeEvent e = i := by
  cases i <;> simp only [Instr.isEncoder, Bool.false_eq_true] at h
  case encOther k => exact ⟨_, rfl, by revert k; decide⟩
  all_goals exact ⟨_, rfl, rfl⟩

/-- Settles O3: a decoder instruction's word is the byte that decodes to it, and an encoder instruction's word is
an event that decodes to it and that the port can carry. -/
theorem decodeOfEncodeIsTheInstruction : Obligations.DecodeOfEncodeIsTheInstruction := by
  intro p i hwf
  cases h : i.isEncoder with
  | false =>
    obtain ⟨b, hb, hi⟩ := decodeByte_encode_of_decoder h
    rw [hb, decode, hi]
  | true =>
    obtain ⟨e, he, hi⟩ := decodeEvent_encode_of_encoder h
    rw [he]
    exact decode_event_of_fits (presentable_of_wf i p hwf e he) hi

/-! ### From a word to its instruction and back -/

theorem isEncoder_decodeByte (b : Byte) : (decodeByte b).isEncoder = false := by
  revert b; decide

/-- R61, R62, R65, R66: no bit of a byte is lost in its instruction. -/
theorem encode_decodeByte (b : Byte) : encode (decodeByte b) = .wire b := by
  revert b; decide

/-- R65, R71: every operand of a decoder instruction is legal. -/
theorem wf_of_decoder {i : Instr} (h : i.isEncoder = false) (p : Params) : i.wf p = true := by
  cases i <;> simp only [Instr.isEncoder, Bool.true_eq_false] at h <;> rfl

theorem isEncoder_decodeEvent (e : PortEvent) : (decodeEvent e).isEncoder = true := by
  obtain ⟨k, ch, a, b, v⟩ := e
  obtain (rfl | rfl | rfl | rfl | rfl | rfl | rfl | rfl) |
    (rfl | rfl | rfl | rfl | rfl | rfl | rfl | rfl) := kind_cases k <;> rfl

/-- R74: an event's instruction holds the fields its kind uses, and no others. -/
theorem encode_decodeEvent (e : PortEvent) : encode (decodeEvent e) = .event e.used := by
  obtain ⟨k, ch, a, b, v⟩ := e
  obtain (rfl | rfl | rfl | rfl | rfl | rfl | rfl | rfl) | hk := kind_cases k
  case inr =>
    rcases hk with rfl | rfl | rfl | rfl | rfl | rfl | rfl | rfl <;>
      simp [decodeEvent, encode, PortEvent.used]
  all_goals rfl

/-- R208: an event the port can carry gives a well-formed instruction. -/
theorem wf_decodeEvent {p : Params} {e : PortEvent} (h : e.misfit p = none) :
    (decodeEvent e).wf p = true := by
  obtain ⟨ha, hb, hv⟩ := (misfit_eq_none_iff p e).1 h
  have hab := Bool.and_eq_true_iff.2 ⟨ha, hb⟩
  obtain ⟨k, ch, a, b, v⟩ := e
  obtain (rfl | rfl | rfl | rfl | rfl | rfl | rfl | rfl) | hk := kind_cases k
  · exact hab
  · exact hab
  · exact hab
  · exact hab
  · exact ha
  · exact ha
  · exact hv
  · rfl
  · rcases hk with rfl | rfl | rfl | rfl | rfl | rfl | rfl | rfl <;> rfl

/-- Settles O4, by the two classes of words that decode. -/
theorem encodeOfDecodeIsTheWord : Obligations.EncodeOfDecodeIsTheWord := by
  intro p w i h
  obtain ⟨b, rfl, rfl⟩ | ⟨e, rfl, hfit, rfl⟩ := decode_cases h
  · refine ⟨wf_of_decoder (isEncoder_decodeByte b) p, fun b' hb' => ?_, by simp⟩
    rw [← hb']
    exact ⟨encode_decodeByte b, isEncoder_decodeByte b⟩
  · refine ⟨wf_decodeEvent hfit, by simp, fun e' he' => ?_⟩
    obtain rfl := InWord.event.inj he'
    exact ⟨encode_decodeEvent e, isEncoder_decodeEvent e⟩

/-! ### The opcode table -/

/-- R79: one row fits a byte. -/
theorem rows_fitting_wire (b : Byte) :
    (opcodeTable.filter fun r => r.fits (.wire b)).map Row.mnemonic = [(decodeByte b).mnemonic] := by
  revert b; decide

theorem mnemonic_decodeEvent (e : PortEvent) :
    (decodeEvent e).mnemonic = (decodeEvent ⟨e.kind, 0, 0, 0, 0⟩).mnemonic := by
  obtain ⟨k, ch, a, b, v⟩ := e
  obtain (rfl | rfl | rfl | rfl | rfl | rfl | rfl | rfl) |
    (rfl | rfl | rfl | rfl | rfl | rfl | rfl | rfl) := kind_cases k <;> rfl

/-- R79: one row fits an event, whatever its other fields hold: `kind` alone selects it. -/
theorem rows_fitting_event (e : PortEvent) :
    (opcodeTable.filter fun r => r.fits (.event e)).map Row.mnemonic =
      [(decodeEvent e).mnemonic] := by
  have hkind : ∀ k : Nibble,
      (opcodeTable.filter fun r => r.fits (.event ⟨k, 0, 0, 0, 0⟩)).map Row.mnemonic =
        [(decodeEvent ⟨k, 0, 0, 0, 0⟩).mnemonic] := by decide
  rw [mnemonic_decodeEvent]
  exact hkind e.kind

/-- Settles O5, by the two classes of words that decode. -/
theorem everyWordHasExactlyOneRow : Obligations.EveryWordHasExactlyOneRow := by
  intro p w i h
  obtain ⟨b, rfl, rfl⟩ | ⟨e, rfl, -, rfl⟩ := decode_cases h
  · exact rows_fitting_wire b
  · exact rows_fitting_event e

/-- Settles O7: each word is a literal, and the decoder computes. -/
theorem writtenOutWordsDecode : Obligations.WrittenOutWordsDecode := by
  unfold Obligations.WrittenOutWordsDecode
  decide

/-! ### What reaches no output -/

/-- R74: the decoder of events reads no field that the kind does not use. -/
theorem decodeEvent_used (e : PortEvent) : decodeEvent e.used = decodeEvent e := by
  obtain ⟨k, ch, a, b, v⟩ := e
  obtain (rfl | rfl | rfl | rfl | rfl | rfl | rfl | rfl) |
    (rfl | rfl | rfl | rfl | rfl | rfl | rfl | rfl) := kind_cases k <;> rfl

/-- R68: a masked parameter is its value modulo 128. -/
theorem mask7_congr {x y : Nat} (h : x % 128 = y % 128) : mask7 x = mask7 y := by
  apply BitVec.eq_of_toNat_eq
  simpa [mask7] using h

/-- R69: a biased value is that of the value modulo 16384. -/
theorem biased14_congr {v w : Int} (h : v % 16384 = w % 16384) : biased14 v = biased14 w := by
  apply BitVec.eq_of_toNat_eq
  have hv := biased14_toNat v
  have hw := biased14_toNat w
  omega

/-- Settles O8: the event decoder sees the used fields only, and an encoder instruction sees its parameters
through the masks only. -/
theorem unusedFieldsAndHighBitsDoNotMatter : Obligations.UnusedFieldsAndHighBitsDoNotMatter := by
  refine ⟨fun p e e' he he' h => ?_, fun ch x x' y y' v v' s hx hy hv => ?_⟩
  · rw [decode_event_of_fits he rfl, decode_event_of_fits he' rfl, ← decodeEvent_used, h,
      decodeEvent_used]
  · simp only [exec, execEncNoteOff, execEncNoteOn, execEncPolyPressure, execEncControlChange,
      execEncProgramChange, execEncChannelPressure, execEncPitchBend, mask7_congr hx, mask7_congr hy,
      biased14_congr hv, and_self]

end Sys2Proof.Machine
end

section
/-! PROOF. The step (20_memory.md R41, R48; 70_reset_and_hazards.md R198, R201): one equation for each head of the
input, and from them what stops it and what invariant it keeps. -/

namespace Sys2Proof.Machine

/-! ### The step by the head of the input -/

section
variable {s : State} {rest : List InItem}

theorem step_of_nil (hin : s.input = []) : step s = .next s := by
  simp [step, fetch, hin]

theorem step_of_rst (hin : s.input = .rst :: rest) :
    step s = .next { s with input := rest }.applyReset := by
  simp [step, fetch, hin]

theorem step_of_misfit {e : PortEvent} {m : Misfit} (hin : s.input = .word (.event e) :: rest)
    (hm : e.misfit s.params = some m) : step s = .refused (.notPresentable m) := by
  simp [step, fetch, hin, decode, hm]

end

/-- What the head of the input can be, for the step. -/
theorem input_cases (s : State) :
    s.input = [] ∨ (∃ rest, s.input = .rst :: rest) ∨
    (∃ b rest, s.input = .word (.wire b) :: rest) ∨
    (∃ e rest, s.input = .word (.event e) :: rest ∧ e.misfit s.params = none) ∨
    (∃ e rest m, s.input = .word (.event e) :: rest ∧ e.misfit s.params = some m) := by
  match s.input with
  | [] => exact .inl rfl
  | .rst :: rest => exact .inr (.inl ⟨rest, rfl⟩)
  | .word (.wire b) :: rest => exact .inr (.inr (.inl ⟨b, rest, rfl⟩))
  | .word (.event e) :: rest =>
    cases he : e.misfit s.params with
    | none => exact .inr (.inr (.inr (.inl ⟨e, rest, rfl, he⟩)))
    | some m => exact .inr (.inr (.inr (.inr ⟨e, rest, m, rfl, he⟩)))

/-- Settles O9: the rule for a word at the head of the input. -/
theorem stepRunsTheDecodedInstruction : Obligations.StepRunsTheDecodedInstruction :=
  fun _ _ _ _ => step_of_word

/-- Settles O10: the rules for no input and for the reset line. -/
theorem stepWaitsOrResets : Obligations.StepWaitsOrResets :=
  ⟨fun _ => step_of_nil, fun _ _ => step_of_rst⟩

/-! ### Nothing stops -/

/-- R71, R150: every instruction answers a next state. -/
theorem exec_total (i : Instr) (s : State) : ∃ t, exec i s = .next t := by
  cases h : i.isEncoder with
  | true =>
    obtain ⟨r, hr, -⟩ := exec_encoder_cases h
    exact ⟨_, hr s⟩
  | false =>
    obtain ⟨b, -, rfl⟩ := decodeByte_encode_of_decoder h
    exact ⟨_, exec_decodeByte b s⟩

/-- A step is refused for an event that does not fit its port, and for nothing else. -/
theorem step_eq_refused_iff (s : State) (r : Refusal) :
    step s = .refused r ↔ ∃ e rest m, s.input = .word (.event e) :: rest ∧
      e.misfit s.params = some m ∧ r = .notPresentable m := by
  refine ⟨fun h => ?_, fun ⟨e, rest, m, hin, hm, hr⟩ => hr ▸ step_of_misfit hin hm⟩
  obtain hin | ⟨rest, hin⟩ | ⟨b, rest, hin⟩ | ⟨e, rest, hin, he⟩ | ⟨e, rest, m, hin, hm⟩ :=
    input_cases s
  · simp [step_of_nil hin] at h
  · simp [step_of_rst hin] at h
  · simp [step_of_wire hin] at h
  · simp [step_of_event hin he] at h
  · rw [step_of_misfit hin hm] at h
    exact ⟨e, rest, m, hin, hm, (Host.Outcome.refused.inj h).symm⟩

/-- Settles O11: no fault exists to be answered, and the refusals are those of the misfits. -/
theorem nothingStopsTheCodec : Obligations.NothingStopsTheCodec := by
  refine ⟨exec_total, fun s r => ?_, step_eq_refused_iff⟩
  cases r

/-! ### The invariant of the decoder (R25) -/

theorem dlen_ne_zero {b : Byte} (h : isStatus b = true) (hf : opc b ≠ 0xF#4) : dlen b ≠ 0 := by
  revert b; decide

theorem DecoderState.Inv.reset : DecoderState.reset.Inv :=
  ⟨by decide, by decide, by decide, by decide, by decide, rfl⟩

section
variable {S : DecoderState}

/-- R92: a cached status byte starts a message, of which nothing is collected. -/
theorem DecoderState.Inv.cache (hS : S.Inv) {b : Byte} (h : isStatus b = true) : (S.cache b).Inv where
  cached := by simp [h]
  countNone := by simp
  countSome := by simp
  notFull := by simp
  empty := by simp
  pending := hS.pending

/-- R94: the registers between messages. -/
theorem DecoderState.Inv.emptied (hS : S.Inv) : DecoderState.Inv { S with collected := [] } where
  cached := hS.cached
  countNone := hS.countNone
  countSome := hS.countSome
  notFull := id
  empty _ := rfl
  pending := hS.pending

/-- R94: a collected byte that does not complete the message leaves it incomplete. -/
theorem DecoderState.Inv.collect (hS : S.Inv) {st : Byte} (hrs : S.runningStatus = some st)
    (hf : opc st ≠ 0xF#4) {d : Data7} (hlen : S.collected.length + 1 ≠ S.expectedCount.val) :
    DecoderState.Inv { S with collected := S.collected ++ [d] } where
  cached := hS.cached
  countNone := hS.countNone
  countSome := hS.countSome
  notFull hpos := by
    have hlt := hS.notFull hpos
    rw [List.length_append, List.length_singleton]
    exact lt_of_le_of_ne hlt hlen
  empty hzero := by
    rw [hS.countSome st hrs] at hzero
    exact absurd hzero (dlen_ne_zero (hS.cached st hrs) hf)
  pending := hS.pending

theorem DecoderState.Inv.dataStep (hS : S.Inv) (d : Data7) : (dataStep d S).state.Inv := by
  obtain ⟨-, h⟩ | ⟨st, -, -, h⟩ | ⟨st, hrs, hf, h⟩ := dataStep_cases d S
  · rw [h]; exact hS
  · rw [h]; exact hS
  · obtain ⟨-, ha⟩ | ⟨hlen, ha⟩ := appendStep_cases st d S
    · rw [h, ha]; exact hS.emptied
    · rw [h, ha]; exact hS.collect hrs hf hlen

/-- R25: no byte leaves the invariant. -/
theorem DecoderState.Inv.byteStep (hS : S.Inv) (p : Params) (b : Byte) :
    (byteStep p b S).state.Inv := by
  unfold Machine.byteStep
  split
  · split
    · rw [systemStatusStep_state]; exact hS.cache ‹_›
    · exact hS.cache ‹_›
  · exact hS.dataStep _

end

/-! ### The range of what is emitted (R13) -/

/-- R94: what an assembled event is, by the family of its status. -/
theorem assemble_cases {st : Byte} {c : List Data7} {e : MidiEvent} (h : assemble st c = some e) :
    (∃ a b, c = [a, b] ∧
      ((opc st = 0x8#4 ∧ e = .noteOff (chan st) a.toNat b.toNat) ∨
        (opc st = 0x9#4 ∧ e = .noteOn (chan st) a.toNat b.toNat) ∨
        (opc st = 0xA#4 ∧ e = .polyPressure (chan st) a.toNat b.toNat) ∨
        (opc st = 0xB#4 ∧ e = .controlChange (chan st) a.toNat b.toNat) ∨
        (opc st = 0xE#4 ∧ e = .pitchBend (chan st) (bendValue a b)))) ∨
    (∃ a, c = [a] ∧
      ((opc st = 0xC#4 ∧ e = .programChange (chan st) a.toNat) ∨
        (opc st = 0xD#4 ∧ e = .channelPressure (chan st) a.toNat))) := by
  unfold assemble at h
  split at h <;> simp_all

theorem inRange_of_assemble {st : Byte} {c : List Data7} {e : MidiEvent}
    (h : assemble st c = some e) : e.InRange := by
  obtain ⟨a, b, -, ⟨-, rfl⟩ | ⟨-, rfl⟩ | ⟨-, rfl⟩ | ⟨-, rfl⟩ | ⟨-, rfl⟩⟩ |
    ⟨a, -, ⟨-, rfl⟩ | ⟨-, rfl⟩⟩ := assemble_cases h
  · exact ⟨a.isLt, b.isLt⟩
  · exact ⟨a.isLt, b.isLt⟩
  · exact ⟨a.isLt, b.isLt⟩
  · exact ⟨a.isLt, b.isLt⟩
  · exact bendValue_range a b
  · exact a.isLt
  · exact a.isLt

/-- R90: an event that a byte gives is a system real-time event of the table, or an assembled one. -/
theorem byteStep_out_cases {p : Params} {b : Byte} {S : DecoderState} {e : MidiEvent}
    (h : (byteStep p b S).out = some e) :
    (isStatus b = true ∧ ∃ k, rt p b = some k ∧ e = .systemRealtime k) ∨
    (isStatus b = false ∧ ∃ st, S.runningStatus = some st ∧ opc st ≠ 0xF#4 ∧
      S.collected.length + 1 = S.expectedCount.val ∧
      assemble st (S.collected ++ [dataValue b]) = some e) := by
  unfold byteStep at h
  split at h
  · next hb =>
    split at h
    · obtain ⟨k, hk, hs⟩ | ⟨-, hs⟩ := systemStatusStep_cases p b S
      · exact .inl ⟨hb, k, hk, by simpa [hs] using h.symm⟩
      · simp [hs] at h
    · simp [channelStatusStep] at h
  · next hb =>
    obtain ⟨-, hd⟩ | ⟨st, -, -, hd⟩ | ⟨st, hrs, hf, hd⟩ := dataStep_cases (dataValue b) S
    · simp [hd] at h
    · simp [hd] at h
    · obtain ⟨hlen, ha⟩ | ⟨-, ha⟩ := appendStep_cases st (dataValue b) S
      · exact .inr ⟨by simpa using hb, st, hrs, hf, hlen, by simpa [hd, ha] using h⟩
      · simp [hd, ha] at h

theorem inRange_of_byteStep {p : Params} {b : Byte} {S : DecoderState} {e : MidiEvent}
    (h : (byteStep p b S).out = some e) : e.InRange := by
  obtain ⟨-, k, -, rfl⟩ | ⟨-, st, -, -, -, ha⟩ := byteStep_out_cases h
  · exact trivial
  · exact inRange_of_assemble ha

/-! ### The invariant of the machine -/

section
variable {s : State}

theorem State.Inv.applyReset (hs : s.Inv) : s.applyReset.Inv :=
  ⟨hs.legal, DecoderState.Inv.reset, hs.events, hs.groups⟩

theorem State.Inv.withInput (hs : s.Inv) (l : List InItem) : State.Inv { s with input := l } :=
  ⟨hs.legal, hs.decoder, hs.events, hs.groups⟩

theorem State.Inv.feedByte (hs : s.Inv) (b : Byte) : (s.feedByte b).Inv where
  legal := hs.legal
  decoder := hs.decoder.byteStep s.params b
  events := by
    intro e he
    obtain he | he := List.mem_append.1 he
    · exact hs.events e he
    · exact inRange_of_byteStep (Option.mem_toList.1 he)
  groups := hs.groups

theorem State.Inv.sendEvent (hs : s.Inv) (e : PortEvent) : (s.sendEvent e).Inv where
  legal := hs.legal
  decoder := hs.decoder
  events := hs.events
  groups := by
    obtain ⟨r, names, hok, hexec⟩ := encoderIsTotalAndStateless _ (isEncoder_decodeEvent e)
    have hwire : (s.sendEvent e).wireOut = s.wireOut ++ r.toList := by
      have h := (exec_decodeEvent e s).symm.trans (hexec s)
      rw [Host.Outcome.next.inj h]
    intro g hg
    rw [hwire] at hg
    obtain hg | hg := List.mem_append.1 hg
    · exact hs.groups g hg
    · exact (hok g (Option.mem_toList.1 hg)).1

end

/-- Settles O12: waiting, the reset line, a byte and an event each keep the invariant. -/
theorem everyStepKeepsTheInvariant : Obligations.EveryStepKeepsTheInvariant := by
  intro s t hs h
  obtain hin | ⟨rest, hin⟩ | ⟨b, rest, hin⟩ | ⟨e, rest, hin, he⟩ | ⟨e, rest, m, hin, hm⟩ :=
    input_cases s
  · rw [step_of_nil hin] at h
    exact Host.Outcome.next.inj h ▸ hs
  · rw [step_of_rst hin] at h
    exact Host.Outcome.next.inj h ▸ (hs.withInput rest).applyReset
  · rw [step_of_wire hin] at h
    exact Host.Outcome.next.inj h ▸ (hs.withInput rest).feedByte b
  · rw [step_of_event hin he] at h
    exact Host.Outcome.next.inj h ▸ (hs.withInput rest).sendEvent e
  · rw [step_of_misfit hin hm] at h
    cases h

/-! ### Reset -/

/-- Settles O1: reset is its definition, and the default table is legal. -/
theorem resetLeavesTheDecoderEmpty : Obligations.ResetLeavesTheDecoderEmpty :=
  ⟨fun _ => ⟨rfl, rfl⟩, rfl, rfl, rfl, rfl, rfl, by decide⟩

theorem State.Inv.resetWith {p : Params} (hp : p.Legal) : (State.resetWith p).Inv :=
  ⟨hp, DecoderState.Inv.reset, by simp [State.resetWith], by simp [State.resetWith]⟩

/-- Settles O2: the decoder at reset has R25, and nothing has left the codec. -/
theorem resetHasTheInvariant : Obligations.ResetHasTheInvariant :=
  ⟨State.Inv.resetWith (by decide), fun _ => State.Inv.resetWith⟩

/-! ### A whole run -/

/-- Settles O46: the run is all bytes and then all events, and each half has the fields of its fold. -/
theorem runIsFeedAndEncodeSideBySide : Obligations.RunIsFeedAndEncodeSideBySide := by
  intro s hrst hfit
  obtain ⟨hp, hi, hd, hev, hwire⟩ :=
    State.feedBytes_fields { s with input := [] } (inputBytes s.input)
  obtain ⟨hp', hi', hd', hev', hwire'⟩ := State.sendEvents_fields
    ({ s with input := [] }.feedBytes (inputBytes s.input)) (inputEvents s.input)
  refine ⟨_, runSteps_eq_feedBytes_sendEvents s.input s hrst hfit, hi'.trans hi, hp'.trans hp,
    hd'.trans hd, hev'.trans hev, ?_⟩
  rw [hwire', hwire, hp]

end Sys2Proof.Machine
end

section
/-! PROOF. A status byte in every state (R92, R120): the state it leaves, for the channel-voice families and for
the sixteen system bytes. -/

namespace Sys2Proof.Machine

/-! ### Classes of status bytes by their number -/

theorem opc_eq_system_iff (b : Byte) : opc b = 0xF#4 ↔ 0xF0 ≤ b.toNat := by
  revert b; decide

theorem opc_ne_system_iff (b : Byte) : opc b ≠ 0xF#4 ↔ b.toNat < 0xF0 := by
  rw [Ne, opc_eq_system_iff, Nat.not_le]

theorem isStatus_of_system {b : Byte} (hf : opc b = 0xF#4) : isStatus b = true := by
  rw [opc_eq_system_iff] at hf
  rw [isStatus_iff]
  omega

theorem dlen_of_system {b : Byte} (hf : opc b = 0xF#4) : dlen b = 0 := by
  simp [dlen, hf]

/-- R64: the count of data bytes, by the opcode nibble as a number. -/
theorem dlen_by_nibble (b : Byte) :
    (b.toNat / 16 = 0x8 ∨ b.toNat / 16 = 0x9 ∨ b.toNat / 16 = 0xA ∨ b.toNat / 16 = 0xB ∨
      b.toNat / 16 = 0xE → dlen b = 2) ∧
    (b.toNat / 16 = 0xC ∨ b.toNat / 16 = 0xD → dlen b = 1) ∧
    (b.toNat / 16 = 0xF → dlen b = 0) := by
  revert b; decide

/-! ### The state after a status byte -/

section
variable (s : State) {b : Byte}

/-- R92: a channel-voice status byte is cached and emits nothing. -/
theorem feedByte_of_channelStatus (h : isStatus b = true) (hf : opc b ≠ 0xF#4) :
    s.feedByte b = s.cached b (dlen b) [] [] := by
  simp [State.feedByte, byteStep, h, hf, channelStatusStep, State.putFeed, State.cached,
    DecoderState.cache, DecoderState.abandoned_eq]

/-- R120: a system status byte that the table has is cached and emits its event. -/
theorem feedByte_of_supported (hf : opc b = 0xF#4) {k : RtKind} (hk : rt s.params b = some k) :
    s.feedByte b = s.cached b 0 [.systemRealtime k] [] := by
  simp [State.feedByte, byteStep, isStatus_of_system hf, hf, systemStatusStep, hk, State.putFeed,
    State.cached, DecoderState.cache, DecoderState.abandoned_eq, dlen_of_system]

/-- R120: a system status byte outside the table is cached and emits nothing. -/
theorem feedByte_of_unsupported (hf : opc b = 0xF#4) (hk : rt s.params b = none) :
    s.feedByte b = s.cached b 0 [] [.unsupportedStatus] := by
  simp [State.feedByte, byteStep, isStatus_of_system hf, hf, systemStatusStep, hk, State.putFeed,
    State.cached, DecoderState.cache, DecoderState.abandoned_eq, dlen_of_system]

/-- R120: what a system status byte emits is the table's, and nothing else. -/
theorem feedByte_of_system (hf : opc b = 0xF#4) :
    ∃ out names, s.feedByte b = s.cached b 0 out names ∧
      (∀ k, rt s.params b = some k → out = [.systemRealtime k] ∧ names = []) ∧
      (rt s.params b = none → out = [] ∧ names = [.unsupportedStatus]) := by
  cases hk : rt s.params b with
  | some k => exact ⟨_, _, feedByte_of_supported s hf hk, by simp, by simp⟩
  | none => exact ⟨_, _, feedByte_of_unsupported s hf hk, by simp, by simp⟩

end

/-- Settles O13, by the two classes of status bytes. -/
theorem statusByteIsCachedInEveryState : Obligations.StatusByteIsCachedInEveryState := by
  intro b s hb
  have hst := (isStatus_iff b).2 hb
  have hsys : opc b = 0xF#4 ↔ b.toNat / 16 = 0xF := by rw [opc_eq_system_iff]; omega
  obtain ⟨htwo, hone, hzero⟩ := dlen_by_nibble b
  by_cases hf : opc b = 0xF#4
  · obtain ⟨out, names, hfeed, hout⟩ := feedByte_of_system s hf
    rw [← dlen_of_system hf] at hfeed
    exact ⟨dlen b, out, names, by rw [exec_decodeByte, hfeed], htwo, hone, hzero,
      fun hn => absurd (hsys.1 hf) hn, fun _ => hout⟩
  · exact ⟨dlen b, [], [], by rw [exec_decodeByte, feedByte_of_channelStatus s hst hf], htwo, hone,
      hzero, fun _ => ⟨rfl, rfl⟩, fun hn => absurd (hsys.2 hn) hf⟩

/-! ### The seven channel-voice status instructions -/

/-- R92: the instruction of a channel-voice opcode nibble caches its status byte. -/
theorem exec_channelStatus {i : Instr} {nib : Nibble} {ch : Chan} {b : Byte} {n : Fin 3}
    (hi : decodeStatus nib ch = i) (hbit : nib.getLsbD 3 = true) (hf : nib ≠ 0xF#4)
    (hb : statusByte nib ch = b) (hn : dlen (statusByte nib ch) = n) (s : State) :
    exec i s = .next (s.cached b n [] []) := by
  subst hi hb hn
  rw [← decodeByte_statusByte hbit, exec_decodeByte,
    feedByte_of_channelStatus s (isStatus_statusByte hbit ch) (by rwa [opc_statusByte])]

/-- R64: the count depends on the opcode nibble alone. -/
theorem dlen_statusByte (ch : Chan) :
    dlen (statusByte 0x8#4 ch) = 2 ∧ dlen (statusByte 0x9#4 ch) = 2 ∧
    dlen (statusByte 0xA#4 ch) = 2 ∧ dlen (statusByte 0xB#4 ch) = 2 ∧
    dlen (statusByte 0xC#4 ch) = 1 ∧ dlen (statusByte 0xD#4 ch) = 1 ∧
    dlen (statusByte 0xE#4 ch) = 2 := by
  simp [dlen]

/-- Settles O14: each instruction is that of its opcode nibble, with the status byte as a sum. -/
theorem channelVoiceStatusResults : Obligations.ChannelVoiceStatusResults := by
  intro ch s
  obtain ⟨h8, h9, hA, hB, hC, hD, hE⟩ := statusByte_eq_sum ch
  obtain ⟨n8, n9, nA, nB, nC, nD, nE⟩ := dlen_statusByte ch
  exact ⟨exec_channelStatus rfl rfl (by decide) h8 n8 s, exec_channelStatus rfl rfl (by decide) h9 n9 s,
    exec_channelStatus rfl rfl (by decide) hA nA s, exec_channelStatus rfl rfl (by decide) hB nB s,
    exec_channelStatus rfl rfl (by decide) hC nC s, exec_channelStatus rfl rfl (by decide) hD nD s,
    exec_channelStatus rfl rfl (by decide) hE nE s⟩

/-! ### The sixteen system status instructions -/

/-- The system status byte 0xF0 + i (R66). -/
def systemByte (i : Fin 16) : Byte := BitVec.ofNat 8 (0xF0 + i.val)

theorem opc_systemByte (i : Fin 16) : opc (systemByte i) = 0xF#4 := by
  revert i; decide

theorem chan_systemByte_toNat (i : Fin 16) : (chan (systemByte i)).toNat = i.val := by
  revert i; decide

/-- R66: a byte with the opcode nibble 0xF is that of its sub-code. -/
theorem systemByte_of_opc {b : Byte} (hf : opc b = 0xF#4) :
    systemByte ⟨(chan b).toNat, (chan b).isLt⟩ = b := by
  revert b; decide

/-- R66: entry `i` of the table is for the byte 0xF0 + i. -/
theorem rt_systemByte (p : Params) (i : Fin 16) : rt p (systemByte i) = p.rtTable[i] := by
  simp [rt, isSystem, isStatus_of_system, opc_systemByte, chan_systemByte_toNat]

/-- R120: the instruction of the byte 0xF0 + i leaves what the table's entry `i` says. -/
theorem exec_systemByte (s : State) (i : Fin 16) :
    exec (decodeByte (systemByte i)) s = .next (s.systemCached i) := by
  rw [exec_decodeByte, State.systemCached]
  cases hk : s.params.rtTable[i] with
  | some k => rw [feedByte_of_supported s (opc_systemByte i) ((rt_systemByte s.params i).trans hk)]; rfl
  | none => rw [feedByte_of_unsupported s (opc_systemByte i) ((rt_systemByte s.params i).trans hk)]; rfl

/-- Settles O15: each instruction is that of its byte. -/
theorem systemStatusResults : Obligations.SystemStatusResults := fun s =>
  ⟨exec_systemByte s 0, exec_systemByte s 1, exec_systemByte s 2, exec_systemByte s 3,
    exec_systemByte s 4, exec_systemByte s 5, exec_systemByte s 6, exec_systemByte s 7,
    exec_systemByte s 8, exec_systemByte s 9, exec_systemByte s 10, exec_systemByte s 11,
    exec_systemByte s 12, exec_systemByte s 13, exec_systemByte s 14, exec_systemByte s 15⟩

/-- Settles O16: the default table's entry of each byte. -/
theorem defaultTableEvents : Obligations.DefaultTableEvents := by
  intro s ht
  have h := systemStatusResults s
  simp only [State.systemCached, ht] at h
  exact h

end Sys2Proof.Machine
end

section
/-! PROOF. One step in full: that the meanings are `feed` and `encode`, what a byte leaves alone, when it emits,
which names it gives, and that the names change nothing. -/

namespace Sys2Proof.Machine

/-! ### The meanings and the normative functions -/

/-- Settles O44: a byte's shared step is `feed`. -/
theorem execOfAByteIsFeed : Obligations.ExecOfAByteIsFeed := by
  intro b s
  refine ⟨(byteStep s.params b s.dec).anomalies, ?_⟩
  rw [exec_decodeByte, feed_eq_byteStep]
  rfl

/-- Settles O45: an event's result is `encode`, and the name stands for its absence. -/
theorem execOfAnEventIsEncode : Obligations.ExecOfAnEventIsEncode := by
  intro e s
  refine ⟨(eventStep s.params e).anomalies, ?_, ?_⟩
  · rw [exec_decodeEvent, ← eventStep_bytes]
    rfl
  · unfold eventStep
    cases encodeEvent (portToEvent s.params e) <;> simp [encodeNothing]

/-! ### What a byte leaves alone -/

/-- R93, R94: a data byte writes no register but `collected`. -/
theorem dataStep_state (d : Data7) (S : DecoderState) :
    ∃ c, (dataStep d S).state = { S with collected := c } := by
  obtain ⟨-, h⟩ | ⟨st, -, -, h⟩ | ⟨st, -, -, h⟩ := dataStep_cases d S
  · exact ⟨S.collected, by rw [h]⟩
  · exact ⟨S.collected, by rw [h]⟩
  · obtain ⟨-, ha⟩ | ⟨-, ha⟩ := appendStep_cases st d S <;> exact ⟨_, by rw [h, ha]⟩

/-- R24: a data byte never writes `expected_count`. -/
@[simp] theorem dataStep_expectedCount (d : Data7) (S : DecoderState) :
    (dataStep d S).state.expectedCount = S.expectedCount := by
  obtain ⟨c, h⟩ := dataStep_state d S
  rw [h]

@[simp] theorem dataStep_pendingStatus (d : Data7) (S : DecoderState) :
    (dataStep d S).state.pendingStatus = S.pendingStatus := by
  obtain ⟨c, h⟩ := dataStep_state d S
  rw [h]

/-- R22: no byte writes `pending_status`. -/
@[simp] theorem byteStep_pendingStatus (p : Params) (b : Byte) (S : DecoderState) :
    (byteStep p b S).state.pendingStatus = S.pendingStatus := by
  unfold byteStep
  split
  · split
    · rw [systemStatusStep_state, DecoderState.cache_pendingStatus]
    · rfl
  · exact dataStep_pendingStatus _ S

/-- R90: a byte emits nothing or one event. -/
theorem State.feedByte_evOut_cases (s : State) (b : Byte) :
    (s.feedByte b).evOut = s.evOut ∨ ∃ e, (s.feedByte b).evOut = s.evOut ++ [e] := by
  rw [State.feedByte_evOut]
  cases (feed s.params s.dec b).2 with
  | none => exact .inl (List.append_nil _)
  | some e => exact .inr ⟨e, rfl⟩

/-- Settles O33: a decoder instruction is a byte's step, which writes the decoder's half of the state only. -/
theorem decoderInstructionsLeaveTheRestAlone : Obligations.DecoderInstructionsLeaveTheRestAlone := by
  intro i s t hi hexec
  obtain ⟨b, -, hb⟩ := decodeByte_encode_of_decoder hi
  have ht : s.feedByte b = t := by
    rw [← hb, exec_decodeByte] at hexec
    exact Host.Outcome.next.inj hexec
  refine ⟨ht ▸ rfl, ht ▸ rfl, ht ▸ rfl, ht ▸ rfl, ht ▸ byteStep_pendingStatus _ _ _,
    ht ▸ s.feedByte_evOut_cases b, ⟨(byteStep s.params b s.dec).anomalies, ht ▸ rfl⟩, ?_⟩
  rintro d rfl
  obtain rfl := Host.Outcome.next.inj ((exec_data d s).symm.trans hexec)
  exact ⟨dataStep_runningStatus d s.dec, dataStep_expectedCount d s.dec⟩

/-! ### When a byte emits -/

/-- R64, R65: the opcode nibbles of the channel-voice status bytes, with two data bytes and with one. -/
theorem opc_cases_of_channelStatus {b : Byte} (h : isStatus b = true) (hf : opc b ≠ 0xF#4) :
    (dlen b = 2 ∧ (opc b = 0x8#4 ∨ opc b = 0x9#4 ∨ opc b = 0xA#4 ∨ opc b = 0xB#4 ∨ opc b = 0xE#4)) ∨
    (dlen b = 1 ∧ (opc b = 0xC#4 ∨ opc b = 0xD#4)) := by
  revert b; decide

/-- R94: as many data bytes as the status asks for make an event. -/
theorem exists_assemble {st : Byte} (h : isStatus st = true) (hf : opc st ≠ 0xF#4) {c : List Data7}
    (hc : c.length = (dlen st).val) : ∃ e, assemble st c = some e := by
  obtain ⟨hlen, ho⟩ | ⟨hlen, ho⟩ := opc_cases_of_channelStatus h hf
  · obtain ⟨x, y, rfl⟩ := List.length_eq_two.1 (hc.trans (congrArg Fin.val hlen))
    rcases ho with ho | ho | ho | ho | ho <;> simp [assemble, ho]
  · obtain ⟨x, rfl⟩ := List.length_eq_one_iff.1 (hc.trans (congrArg Fin.val hlen))
    rcases ho with ho | ho <;> simp [assemble, ho]

theorem opc_of_rt {p : Params} {b : Byte} {k : RtKind} (h : rt p b = some k) :
    opc b = 0xF#4 := by
  by_contra hf
  simp [rt, isSystem, hf] at h

theorem isChannelVoice_iff (b : Byte) :
    isChannelVoice b = true ↔ isStatus b = true ∧ opc b ≠ 0xF#4 := by
  simp [isChannelVoice]

/-- R120: what a system status byte emits. -/
theorem byteStep_out_of_system {b : Byte} (hf : opc b = 0xF#4) (p : Params) (S : DecoderState) :
    (byteStep p b S).out = (rt p b).map .systemRealtime := by
  obtain ⟨k, hk, h⟩ | ⟨hk, h⟩ := systemStatusStep_cases p b S <;>
    simp [byteStep, isStatus_of_system hf, hf, hk, h]

/-- R94: what a completing data byte emits. -/
theorem byteStep_out_of_completing {p : Params} {b st : Byte} {S : DecoderState}
    (hb : isStatus b = false) (hrs : S.runningStatus = some st) (hf : opc st ≠ 0xF#4)
    (hlen : S.collected.length + 1 = S.expectedCount.val) :
    (byteStep p b S).out = assemble st (S.collected ++ [dataValue b]) := by
  simp [byteStep, hb, dataStep, hrs, hf, appendStep, hlen]

/-- R212, for the decoder's registers. -/
theorem byteStep_emits_iff {S : DecoderState} (hS : S.Inv) (p : Params) (b : Byte) :
    (∃ e, (byteStep p b S).out = some e) ↔
      (∃ k, rt p b = some k) ∨
      (b.toNat < 0x80 ∧ ∃ st, S.runningStatus = some st ∧ isChannelVoice st = true ∧
        S.collected.length + 1 = (dlen st).val) := by
  constructor
  · rintro ⟨e, he⟩
    obtain ⟨-, k, hk, -⟩ | ⟨hb, st, hrs, hf, hlen, -⟩ := byteStep_out_cases he
    · exact .inl ⟨k, hk⟩
    · refine .inr ⟨(not_isStatus_iff b).1 hb, st, hrs,
        (isChannelVoice_iff st).2 ⟨hS.cached st hrs, hf⟩, ?_⟩
      rw [hlen, hS.countSome st hrs]
  · rintro (⟨k, hk⟩ | ⟨hb, st, hrs, hcv, hlen⟩)
    · exact ⟨_, by rw [byteStep_out_of_system (opc_of_rt hk), hk]; rfl⟩
    · obtain ⟨hst, hf⟩ := (isChannelVoice_iff st).1 hcv
      rw [byteStep_out_of_completing ((not_isStatus_iff b).2 hb) hrs hf
        (by rw [hlen, hS.countSome st hrs])]
      exact exists_assemble hst hf (by simpa using hlen)

/-- Settles O34: the event a byte appends is the one its step gives. -/
theorem eventComesAtTheCompletingByte : Obligations.EventComesAtTheCompletingByte := by
  intro b s hS
  refine ⟨s.feedByte b, exec_decodeByte b s, ?_, s.feedByte_evOut_cases b⟩
  have hout : (∃ e, (s.feedByte b).evOut = s.evOut ++ [e]) ↔
      ∃ e, (byteStep s.params b s.dec).out = some e := by
    rw [State.feedByte_evOut, feed_eq_byteStep]
    cases (byteStep s.params b s.dec).out <;> simp
  exact hout.trans (byteStep_emits_iff hS s.params b)

/-! ### Which names a byte gives -/

/-- The names of a status byte, of a data byte with nothing cached, and of one under a status (R181 to R184). -/
theorem byteStep_anomalies_cases (p : Params) (b : Byte) (S : DecoderState) :
    (isStatus b = true ∧ (byteStep p b S).anomalies =
      S.abandoned ++ if 0xF0 ≤ b.toNat ∧ rt p b = none then [.unsupportedStatus] else []) ∨
    (isStatus b = false ∧ S.runningStatus = none ∧ (byteStep p b S).anomalies = [.orphanData]) ∨
    (isStatus b = false ∧ ∃ st, S.runningStatus = some st ∧
      (byteStep p b S).anomalies = if opc st = 0xF#4 then [.systemData] else []) := by
  unfold byteStep
  cases h : isStatus b with
  | true =>
    left
    by_cases hf : opc b = 0xF#4
    · have hsys := (opc_eq_system_iff b).1 hf
      obtain ⟨k, hk, hs⟩ | ⟨hk, hs⟩ := systemStatusStep_cases p b S <;> simp [hf, hs, hk, hsys]
    · have hsys : b.toNat < 240 := (opc_ne_system_iff b).1 hf
      simp [hf, channelStatusStep, hsys]
  | false =>
    right
    obtain ⟨hrs, hd⟩ | ⟨st, hrs, hf, hd⟩ | ⟨st, hrs, hf, hd⟩ := dataStep_cases (dataValue b) S
    · exact .inl ⟨rfl, hrs, by simp [hd]⟩
    · exact .inr ⟨rfl, st, hrs, by simp [hd, hf]⟩
    · obtain ⟨-, ha⟩ | ⟨-, ha⟩ := appendStep_cases st (dataValue b) S <;>
        exact .inr ⟨rfl, st, hrs, by simp [hd, ha, hf]⟩

theorem opc_eq_system_iff_nibble (b : Byte) : opc b = 0xF#4 ↔ b.toNat / 16 % 16 = 0xF := by
  revert b; decide

/-- Settles O35, by the cases of a byte. -/
theorem anomalyNamesOfAByte : Obligations.AnomalyNamesOfAByte := by
  intro b s
  refine ⟨s.feedByte b, (byteStep s.params b s.dec).anomalies, exec_decodeByte b s, rfl, rfl, ?_⟩
  simp only [← opc_eq_system_iff_nibble]
  obtain ⟨hb, h⟩ | ⟨hb, hrs, h⟩ | ⟨hb, st, hrs, h⟩ := byteStep_anomalies_cases s.params b s.dec
  · have hlt : ¬ b.toNat < 128 := Nat.not_lt.2 ((isStatus_iff b).1 hb)
    rw [h, DecoderState.abandoned_eq]
    by_cases hc : s.dec.collected = [] <;> by_cases hu : 0xF0 ≤ b.toNat ∧ rt s.params b = none <;>
      simp [hc, hu, hlt, Nat.not_lt.1 hlt]
  · have hlt : b.toNat < 128 := (not_isStatus_iff b).1 hb
    have hsys : ¬ 240 ≤ b.toNat := by omega
    simp [h, hrs, hlt, hsys]
  · have hlt : b.toNat < 128 := (not_isStatus_iff b).1 hb
    have hsys : ¬ 240 ≤ b.toNat := by omega
    by_cases hf : opc st = 0xF#4 <;> simp [h, hrs, hf, hlt, hsys]

/-! ### The names change nothing -/

/-- Settles O36: neither a byte's step nor an event's result reads the two logs. -/
theorem anomalyNamesAffectNothing : Obligations.AnomalyNamesAffectNothing := by
  intro i s
  cases h : i.isEncoder with
  | true =>
    obtain ⟨r, hr, -⟩ := exec_encoder_cases h
    refine ⟨s.dec, s.evOut, s.wireOut ++ r.bytes.toList, [], r.anomalies, fun xs ys => ?_⟩
    rw [hr, List.append_nil]
    rfl
  | false =>
    obtain ⟨b, -, rfl⟩ := decodeByte_encode_of_decoder h
    refine ⟨(byteStep s.params b s.dec).state, s.evOut ++ (byteStep s.params b s.dec).out.toList,
      s.wireOut, (byteStep s.params b s.dec).anomalies, [], fun xs ys => ?_⟩
    rw [exec_decodeByte, List.append_nil]
    rfl

/-- The state with these two logs of names (log 8). -/
def State.withNames (s : State) (xs ys : List Anomaly) : State :=
  { s with decAnomalies := xs, encAnomalies := ys }

/-- R188, for any number of instructions: the logs grow by the same names and change nothing else. -/
theorem execAll_withNames (is : List Instr) (s : State) :
    ∃ (t : State) (n m : List Anomaly), ∀ xs ys,
      execAll is (s.withNames xs ys) = .next (t.withNames (xs ++ n) (ys ++ m)) := by
  induction is generalizing s with
  | nil => exact ⟨s, [], [], fun xs ys => by simp⟩
  | cons i is ih =>
    obtain ⟨S, ev, g, n, m, hexec⟩ := anomalyNamesAffectNothing i s
    obtain ⟨t, n', m', hrest⟩ := ih { s with dec := S, evOut := ev, wireOut := g }
    refine ⟨t, n ++ n', m ++ m', fun xs ys => ?_⟩
    rw [State.withNames, execAll_cons_next (hexec xs ys), ← List.append_assoc, ← List.append_assoc]
    exact hrest (xs ++ n) (ys ++ m)

/-! ### A status byte forgets -/

/-- R92: what a status byte caches, emits and names depends on the byte and the table only, but for the name of
an abandoned message. -/
theorem feedByte_of_status {b : Byte} (h : isStatus b = true) (p : Params) :
    ∃ n out names, ∀ s : State, s.params = p → s.feedByte b = s.cached b n out names := by
  by_cases hf : opc b = 0xF#4
  · cases hk : rt p b with
    | some k => exact ⟨0, _, _, fun s hp => feedByte_of_supported s hf (hp ▸ hk)⟩
    | none => exact ⟨0, _, _, fun s hp => feedByte_of_unsupported s hf (hp ▸ hk)⟩
  · exact ⟨dlen b, _, _, fun s _ => feedByte_of_channelStatus s h hf⟩

/-- Settles O18: after the status byte the two states differ in the ghost log alone, which nothing reads. -/
theorem statusByteForgetsThePast : Obligations.StatusByteForgetsThePast := by
  intro b is s r c k hb
  obtain ⟨n, out, names, hfeed⟩ := feedByte_of_status ((isStatus_iff b).2 hb) s.params
  obtain ⟨t, ns, ms, hrun⟩ := execAll_withNames is (s.cached b n out names)
  have hfrom (u : State) (hp : u.params = s.params)
      (hu : u.cached b n out names = (s.cached b n out names).withNames
        (u.cached b n out names).decAnomalies u.encAnomalies) :
      execAll (decodeByte b :: is) u =
        .next (t.withNames ((u.cached b n out names).decAnomalies ++ ns) (u.encAnomalies ++ ms)) := by
    rw [execAll_cons_next (exec_decodeByte b u), hfeed u hp]
    exact (congrArg (execAll is) hu).trans (hrun _ _)
  exact ⟨_, _, hfrom s rfl rfl, hfrom _ rfl rfl, rfl, rfl, rfl⟩

end Sys2Proof.Machine
end

section
/-! PROOF. Data bytes under a cached status (R93, R94, R137): discarded, collected, or completing a message; then
whole messages of each family, and runs of messages. -/

namespace Sys2Proof.Machine

/-! ### Runs of bytes -/

/-- Bytes executed one after another are the bytes fed. -/
theorem execAll_decodeBytes (bs : List Byte) (s : State) :
    execAll (bs.map decodeByte) s = .next (s.feedBytes bs) := by
  induction bs generalizing s with
  | nil => rfl
  | cons b bs ih =>
    rw [List.map_cons, execAll_cons_next (exec_decodeByte b s), ih, State.feedBytes_cons]

/-- DATA instructions are data bytes (R62). -/
theorem map_data_eq (ds : List Data7) : ds.map Instr.data = (ds.map dataByte).map decodeByte := by
  simp

/-- R41, R48: bytes at the head of the input are fed one a step, and taken. -/
theorem runSteps_wire (bs : List Byte) {s : State} {rest : List InItem}
    (hin : s.input = (bs.map fun b => .word (.wire b)) ++ rest) :
    runSteps bs.length s = .next ({ s with input := rest }.feedBytes bs) := by
  induction bs generalizing s with
  | nil => rw [List.map_nil, List.nil_append] at hin; rw [← hin]; rfl
  | cons b bs ih =>
    rw [List.map_cons, List.cons_append] at hin
    rw [List.length_cons, runSteps_succ_next (step_of_wire hin)]
    exact ih rfl

/-! ### Under a system status, and before any status -/

/-- R137: a data byte under a system status is discarded. -/
theorem dataStep_of_system {S : DecoderState} {b : Byte} (hrs : S.runningStatus = some b)
    (hf : opc b = 0xF#4) (d : Data7) : dataStep d S = ⟨S, none, [.systemData]⟩ := by
  simp [dataStep, hrs, hf]

/-- Settles O23: every data byte under a system status is discarded. -/
theorem dataUnderASystemStatusIsDiscarded : Obligations.DataUnderASystemStatusIsDiscarded :=
  fun ds b _ hrs hb => execAll_data_discarded (dataStep_of_system hrs ((opc_eq_system_iff b).2 hb)) ds

/-- R137: a system status byte and any number of data bytes leave what the status byte alone leaves, and a name for
each data byte. -/
theorem execAll_system_data {i : Instr} {s : State} {b : Byte} {out : List MidiEvent}
    {names : List Anomaly} (hi : exec i s = .next (s.cached b 0 out names)) (hf : opc b = 0xF#4)
    (ds : List Data7) :
    execAll (i :: ds.map Instr.data) s =
      .next (s.cached b 0 out (names ++ List.replicate ds.length .systemData)) := by
  rw [execAll_cons_next hi, execAll_data_discarded (dataStep_of_system rfl hf) ds]
  simp [State.cached]

/-- Settles O31: the byte emits what the table has, and the data bytes after it are discarded. -/
theorem systemByteEndsTheMessageInProgress : Obligations.SystemByteEndsTheMessageInProgress := by
  intro b ds s hb
  have hf := (opc_eq_system_iff b).2 hb
  obtain ⟨out, names, hfeed, hsome, hnone⟩ := feedByte_of_system s hf
  have hexec : exec (decodeByte b) s = .next (s.cached b 0 out names) := by
    rw [exec_decodeByte, hfeed]
  refine ⟨out, names, hexec, execAll_system_data hexec hf ds, fun e he => ?_⟩
  cases hk : rt s.params b with
  | some k =>
    obtain ⟨rfl, -⟩ := hsome k hk
    exact ⟨k, List.mem_singleton.1 he⟩
  | none =>
    obtain ⟨rfl, -⟩ := hnone hk
    exact absurd he List.not_mem_nil

/-- R92: the second of two status bytes in a row leaves what it alone would, with the outputs of both. -/
theorem State.cached_cached (s : State) (b b' : Byte) (n n' : Fin 3) (out out' : List MidiEvent)
    (names names' : List Anomaly) :
    (s.cached b n out names).cached b' n' out' names' =
      s.cached b' n' (out ++ out') (names ++ names') := by
  simp [State.cached]

/-- R120: the instruction of a byte 0xF0 + i without a kind. -/
theorem exec_unsupported {i : Fin 16} {s : State} (h : s.params.rtTable[i] = none) :
    exec (decodeByte (systemByte i)) s = .next (s.cached (systemByte i) 0 [] [.unsupportedStatus]) := by
  rw [exec_systemByte, State.systemCached, h]
  rfl

/-- Settles O30: both ends of the block are unsupported bytes, and what lies between them is discarded. -/
theorem exclusiveBlockEmitsNothing : Obligations.ExclusiveBlockEmitsNothing := by
  intro ds s h0 h7
  have hblock := execAll_system_data (exec_unsupported (i := 0) h0) (by decide) ds
  have hend (names : List Anomaly) := exec_unsupported (i := 7) (s := s.cached 0xF0#8 0 [] names) h7
  refine (execAll_append hblock).trans ((execAll_cons_next (hend _)).trans ?_)
  rw [execAll_nil, State.cached_cached]
  rfl

/-- Settles O20: 0xF4 leaves a state like any other, and a whole `NoteOn` message may follow. -/
theorem unsupportedStatusDoesNotCorruptTheNextMessage :
    Obligations.UnsupportedStatusDoesNotCorruptTheNextMessage := by
  intro s ch a b h4
  have hF4 : exec .sysF4 s = .next (s.cached 0xF4#8 0 [] [.unsupportedStatus]) :=
    exec_unsupported (i := 4) h4
  refine ⟨hF4, _, (execAll_cons_next hF4).trans (execAll_noteOn_pairs ch [(a, b)] _), ?_, rfl⟩
  rw [State.cached_cached]
  rfl

/-- Settles O32: the reset line leaves no status cached, so the data bytes after it are orphans. -/
theorem resetMidMessageSeeksAgain : Obligations.ResetMidMessageSeeksAgain := by
  intro ds rest s hin
  have hin' : s.input =
      .rst :: (((ds.map dataByte).map fun b => InItem.word (.wire b)) ++ rest) := by
    rw [hin, List.map_map]
    rfl
  have hrun := runSteps_wire (ds.map dataByte) (rest := rest)
    (s := { s with input :=
      ((ds.map dataByte).map fun b => InItem.word (.wire b)) ++ rest }.applyReset) rfl
  have hseek := execAll_data_discarded
    (dataStep_of_none (S := DecoderState.reset) rfl) (s := { s with input := rest }.applyReset) ds
  rw [map_data_eq, execAll_decodeBytes] at hseek
  rw [List.length_map] at hrun
  rw [runSteps_succ_next (step_of_rst hin'), hrun]
  exact hseek

/-! ### Under a channel-voice status: one data byte -/

/-- Settles O24: the rule for a byte that does not complete. -/
theorem incompleteMessageCollectsItsByte : Obligations.IncompleteMessageCollectsItsByte :=
  fun _ b _ hrs _ hb hlen => exec_data_collected hrs ((opc_ne_system_iff b).2 hb) hlen

/-- R94: an event is assembled under a channel-voice status only. -/
theorem opc_ne_of_assemble {st : Byte} {c : List Data7} {e : MidiEvent}
    (h : assemble st c = some e) : opc st ≠ 0xF#4 := by
  intro hf
  simp [assemble, hf] at h

/-- R96 to R102: the event of a complete message of each family, its status byte written as a sum. -/
theorem assemble_statusSum (ch : Chan) (a b : Data7) :
    assemble (statusSum 0x80 ch) [a, b] = some (.noteOff ch a.toNat b.toNat) ∧
    assemble (statusSum 0x90 ch) [a, b] = some (.noteOn ch a.toNat b.toNat) ∧
    assemble (statusSum 0xA0 ch) [a, b] = some (.polyPressure ch a.toNat b.toNat) ∧
    assemble (statusSum 0xB0 ch) [a, b] = some (.controlChange ch a.toNat b.toNat) ∧
    assemble (statusSum 0xC0 ch) [a] = some (.programChange ch a.toNat) ∧
    assemble (statusSum 0xD0 ch) [a] = some (.channelPressure ch a.toNat) ∧
    assemble (statusSum 0xE0 ch) [a, b] =
      some (.pitchBend ch ((a.toNat : Int) + 128 * b.toNat - 8192)) := by
  obtain ⟨h8, h9, hA, hB, hC, hD, hE⟩ := statusByte_eq_sum ch
  simp [← h8, ← h9, ← hA, ← hB, ← hC, ← hD, ← hE, assemble, bendValue_eq]

section
variable {st : Byte} {s : State} {a b : Data7} {ev : MidiEvent}

/-- R94: the second of two data bytes emits the event. -/
theorem exec_data_second (hcol : s.dec.collected = [a]) (hexp : s.dec.expectedCount = 2)
    (hev : assemble st [a, b] = some ev) (hrs : s.dec.runningStatus = some st) :
    exec (.data b) s = .next { s with dec := { s.dec with collected := [] },
                                      evOut := s.evOut ++ [ev] } :=
  exec_data_completing hrs (opc_ne_of_assemble hev) (by simp [hcol, hexp]) (by simpa [hcol] using hev)

/-- R94: the one data byte of a one-parameter family emits the event and leaves the registers. -/
theorem exec_data_only (hcol : s.dec.collected = []) (hexp : s.dec.expectedCount = 1)
    (hev : assemble st [a] = some ev) (hrs : s.dec.runningStatus = some st) :
    exec (.data a) s = .next { s with evOut := s.evOut ++ [ev] } := by
  rw [exec_data_completing hrs (opc_ne_of_assemble hev) (by simp [hcol, hexp])
    (by simpa [hcol] using hev), ← hcol]

end

/-- Settles O25: the event of each of the five families. -/
theorem secondDataByteEmitsTheEvent : Obligations.SecondDataByteEmitsTheEvent := by
  intro ch a b s hcol hexp
  obtain ⟨h8, h9, hA, hB, -, -, hE⟩ := assemble_statusSum ch a b
  exact ⟨exec_data_second hcol hexp h8, exec_data_second hcol hexp h9, exec_data_second hcol hexp hA,
    exec_data_second hcol hexp hB, exec_data_second hcol hexp hE⟩

/-- Settles O26: the event of each of the two families. -/
theorem onlyDataByteEmitsTheEvent : Obligations.OnlyDataByteEmitsTheEvent := by
  intro ch a s hcol hexp
  obtain ⟨-, -, -, -, hC, hD, -⟩ := assemble_statusSum ch a a
  exact ⟨exec_data_only hcol hexp hC, exec_data_only hcol hexp hD⟩

/-! ### Whole messages -/

section
variable {i : Instr} {st : Byte} {s : State} {a b : Data7} {ev : MidiEvent}

/-- R92, R94: a three-byte message, after one, two and three of its bytes. -/
theorem execAll_three_bytes (hi : exec i s = .next (s.cached st 2 [] []))
    (hev : assemble st [a, b] = some ev) :
    exec i s = .next (s.cached st 2 [] []) ∧
    execAll [i, .data a] s = .next { s.cached st 2 [] [] with
      dec := ⟨some st, s.dec.pendingStatus, [a], 2⟩ } ∧
    execAll [i, .data a, .data b] s = .next (s.cached st 2 [ev] []) := by
  have hfirst := exec_data_collected (s := s.cached st 2 [] []) (d := a) rfl (opc_ne_of_assemble hev)
    (by decide : 0 + 1 ≠ 2)
  refine ⟨hi, ?_, ?_⟩
  · rw [execAll_cons_next hi, execAll_cons_next hfirst, execAll_nil]
    rfl
  · rw [execAll_cons_next hi, execAll_cons_next hfirst,
      execAll_cons_next (exec_data_second rfl rfl hev rfl), execAll_nil]
    simp [State.cached]

/-- R92, R94: a two-byte message, after one and two of its bytes. -/
theorem execAll_two_bytes (hi : exec i s = .next (s.cached st 1 [] []))
    (hev : assemble st [a] = some ev) :
    exec i s = .next (s.cached st 1 [] []) ∧
    execAll [i, .data a] s = .next (s.cached st 1 [ev] []) := by
  refine ⟨hi, ?_⟩
  rw [execAll_cons_next hi, execAll_cons_next (exec_data_only rfl rfl hev rfl), execAll_nil]
  simp [State.cached]

end

/-- Settles O27: the messages of two lengths, for the status byte and the event of each family. -/
theorem wholeMessageEmitsAtItsLastByte : Obligations.WholeMessageEmitsAtItsLastByte := by
  intro ch a b s
  obtain ⟨i8, i9, iA, iB, iC, iD, iE⟩ := channelVoiceStatusResults ch s
  obtain ⟨h8, h9, hA, hB, hC, hD, hE⟩ := assemble_statusSum ch a b
  exact ⟨execAll_three_bytes i8 h8, execAll_three_bytes i9 h9, execAll_three_bytes iA hA,
    execAll_three_bytes iB hB, execAll_two_bytes iC hC, execAll_two_bytes iD hD,
    execAll_three_bytes iE hE⟩

/-! ### Running status -/

/-- R70, R94: under a one-parameter status any number of data bytes emits the event of each, in order. -/
theorem execAll_data_singles {st : Byte} {s : State} (hrs : s.dec.runningStatus = some st)
    (hcol : s.dec.collected = []) (hexp : s.dec.expectedCount = 1) {f : Data7 → MidiEvent}
    (hf : ∀ x, assemble st [x] = some (f x)) (ds : List Data7) :
    execAll (ds.map Instr.data) s = .next { s with evOut := s.evOut ++ ds.map f } := by
  induction ds generalizing s with
  | nil => simp
  | cons d ds ih =>
    have hrest := ih (s := { s with evOut := s.evOut ++ [f d] }) hrs hcol hexp
    rw [List.map_cons, execAll_cons_next (exec_data_only hcol hexp (hf d) hrs), hrest]
    simp

/-- Settles O28: pairs and single bytes, each by its induction. -/
theorem runningStatusNeverRunsOut : Obligations.RunningStatusNeverRunsOut :=
  ⟨fun b _ pairs _ hrs hcol hexp _ hb hf =>
      execAll_data_pairs hrs ((opc_ne_system_iff b).2 hb) hcol hexp hf pairs,
    fun _ _ ds _ hrs hcol hexp _ _ hf => execAll_data_singles hrs hcol hexp hf ds⟩

end Sys2Proof.Machine
end

section
/-! PROOF. Round trips of R163: a message in full form is a status byte with the data bytes that assemble to its
event, `feed` emits that event at the last of them, and `encode` gives the same bytes back. -/

namespace Sys2Proof.Machine

/-! ### What an assembled event says of its bytes -/

theorem isStatus_eq_opc_bit (b : Byte) : isStatus b = (opc b).getLsbD 3 := by
  revert b; decide

/-- R64, R94: an assembled event has the status byte and the number of data bytes of its family. -/
theorem status_of_assemble {st : Byte} {c : List Data7} {e : MidiEvent} (h : assemble st c = some e) :
    isStatus st = true ∧ c.length = (dlen st).val := by
  rw [isStatus_eq_opc_bit]
  obtain ⟨a, b, rfl, ⟨ho, -⟩ | ⟨ho, -⟩ | ⟨ho, -⟩ | ⟨ho, -⟩ | ⟨ho, -⟩⟩ | ⟨a, rfl, ⟨ho, -⟩ | ⟨ho, -⟩⟩ :=
    assemble_cases h <;> simp [ho, dlen]

/-- R68: a data byte is its own masked value. -/
theorem maskedByte_eq_dataByte (d : Data7) : maskedByte d.toNat = dataByte d := by
  rw [← dataByte_mask7, mask7_toNat]

/-- R163 (a): an assembled event encodes to the bytes it was assembled from. -/
theorem encodeEvent_of_assemble {st : Byte} {c : List Data7} {e : MidiEvent}
    (h : assemble st c = some e) : encodeEvent e = some (st :: c.map dataByte) := by
  obtain ⟨h8, h9, hA, hB, hC, hD, hE⟩ := statusByte_eq_sum (chan st)
  have hst {nib : Nibble} (ho : opc st = nib) : statusByte nib (chan st) = st := by
    rw [← ho, statusByte_opc_chan]
  obtain ⟨a, b, rfl, ⟨ho, rfl⟩ | ⟨ho, rfl⟩ | ⟨ho, rfl⟩ | ⟨ho, rfl⟩ | ⟨ho, rfl⟩⟩ |
    ⟨a, rfl, ⟨ho, rfl⟩ | ⟨ho, rfl⟩⟩ := assemble_cases h
  · simp [encodeEvent, ← h8, hst ho, maskedByte_eq_dataByte]
  · simp [encodeEvent, ← h9, hst ho, maskedByte_eq_dataByte]
  · simp [encodeEvent, ← hA, hst ho, maskedByte_eq_dataByte]
  · simp [encodeEvent, ← hB, hst ho, maskedByte_eq_dataByte]
  · simp [encodeEvent, ← hE, hst ho, ← dataByte_low7, ← dataByte_high7]
  · simp [encodeEvent, ← hC, hst ho, maskedByte_eq_dataByte]
  · simp [encodeEvent, ← hD, hst ho, maskedByte_eq_dataByte]

/-! ### A message fed to the decoder -/

section
variable (p : Params) {S : DecoderState} {st : Byte}

theorem feed_of_channelStatus (h : isStatus st = true) (hf : opc st ≠ 0xF#4) :
    feed p S st = (S.cache st, none) := by
  simp [feed_eq_byteStep, byteStep, h, hf, channelStatusStep]

theorem feed_dataByte (d : Data7) : feed p S (dataByte d) = ((dataStep d S).state, (dataStep d S).out) := by
  simp [feed_eq_byteStep, byteStep]

theorem feedTrace_append (bs cs : List Byte) :
    feedTrace p S (bs ++ cs) = ((feedTrace p (feedTrace p S bs).1 cs).1,
      (feedTrace p S bs).2 ++ (feedTrace p (feedTrace p S bs).1 cs).2) := by
  induction bs generalizing S with
  | nil => rfl
  | cons b bs ih => simp [feedTrace_cons, ih]

/-- R94: data bytes short of the message are collected, in order, and emit nothing. -/
theorem feedTrace_collecting (hrs : S.runningStatus = some st) (hf : opc st ≠ 0xF#4) (ds : List Data7)
    (hlen : S.collected.length + ds.length < S.expectedCount.val) :
    feedTrace p S (ds.map dataByte) =
      ({ S with collected := S.collected ++ ds }, List.replicate ds.length none) := by
  induction ds generalizing S with
  | nil => simp
  | cons d ds ih =>
    rw [List.length_cons] at hlen
    have hne : S.collected.length + 1 ≠ S.expectedCount.val := by omega
    have hfeed : feed p S (dataByte d) = ({ S with collected := S.collected ++ [d] }, none) := by
      simp [feed_dataByte, dataStep, hrs, hf, appendStep, hne]
    have hlen' : (S.collected ++ [d]).length + ds.length < S.expectedCount.val := by
      rw [List.length_append, List.length_singleton]
      omega
    have hrest := ih (S := { S with collected := S.collected ++ [d] }) hrs hlen'
    rw [List.map_cons, feedTrace_cons, hfeed, hrest]
    simp [List.replicate_succ]

/-- R92, R94: a status byte and fewer data bytes than its message has emit nothing. -/
theorem feedTrace_incomplete (h : isStatus st = true) (hf : opc st ≠ 0xF#4) (ds : List Data7)
    (hlen : ds.length < (dlen st).val) :
    feedTrace p S (st :: ds.map dataByte) =
      ({ S.cache st with collected := ds }, List.replicate (ds.length + 1) none) := by
  have hds := feedTrace_collecting p (S := S.cache st) rfl hf ds (by simpa using hlen)
  rw [feedTrace_cons, feed_of_channelStatus p h hf, hds]
  simp [List.replicate_succ]

/-- R92, R94: a message in full form emits its event at the last byte and not before, from any state. -/
theorem feedTrace_message {c : List Data7} {e : MidiEvent} (h : assemble st c = some e) :
    feedTrace p S (st :: c.map dataByte) = (S.cache st, List.replicate c.length none ++ [some e]) := by
  obtain ⟨hst, hlen⟩ := status_of_assemble h
  have hf := opc_ne_of_assemble h
  obtain rfl | ⟨ds, d, rfl⟩ := List.eq_nil_or_concat' c
  · simp [assemble] at h
  · rw [List.length_append, List.length_singleton] at hlen
    have hinit := feedTrace_incomplete p (S := S) hst hf ds (by omega)
    have hlast : feed p { S.cache st with collected := ds } (dataByte d) = (S.cache st, some e) := by
      simp [feed_dataByte, dataStep, hf, appendStep, hlen, h, DecoderState.cache]
    rw [List.map_append, ← List.cons_append, feedTrace_append, hinit, List.map_singleton,
      feedTrace_cons, hlast]
    simp

end

/-! ### From event to wire to event -/

/-- R69: the halves of any biased value assemble to the value modulo 16384. -/
theorem bendValue_biased14 (v : Int) :
    bendValue (low7 (biased14 v)) (high7 (biased14 v)) = (v + 8192) % 16384 - 8192 := by
  have h := biased14_toNat v
  rw [toNat_eq_low7_add_high7] at h
  rw [bendValue_eq]
  omega

/-- R163 (c): the bytes of a supported event are a message that assembles to the reduced event. -/
theorem exists_message_of_encodeEvent {e : MidiEvent} {g : List Byte} (h : encodeEvent e = some g) :
    ∃ st c, g = st :: c.map dataByte ∧ assemble st c = some e.reduced := by
  have hmask (n : Nat) : (mask7 n).toNat = n % 128 := by simp [mask7]
  have hsum (ch : Chan) (m n : Nat) := assemble_statusSum ch (mask7 m) (mask7 n)
  simp only [hmask] at hsum
  cases e with
  | noteOff ch m n =>
    obtain ⟨h8, -⟩ := hsum ch m n
    exact ⟨_, [mask7 m, mask7 n], by simpa [encodeEvent, dataByte_mask7] using h.symm, h8⟩
  | noteOn ch m n =>
    obtain ⟨-, h9, -⟩ := hsum ch m n
    exact ⟨_, [mask7 m, mask7 n], by simpa [encodeEvent, dataByte_mask7] using h.symm, h9⟩
  | polyPressure ch m n =>
    obtain ⟨-, -, hA, -⟩ := hsum ch m n
    exact ⟨_, [mask7 m, mask7 n], by simpa [encodeEvent, dataByte_mask7] using h.symm, hA⟩
  | controlChange ch m n =>
    obtain ⟨-, -, -, hB, -⟩ := hsum ch m n
    exact ⟨_, [mask7 m, mask7 n], by simpa [encodeEvent, dataByte_mask7] using h.symm, hB⟩
  | programChange ch m =>
    obtain ⟨-, -, -, -, hC, -⟩ := hsum ch m m
    exact ⟨_, [mask7 m], by simpa [encodeEvent, dataByte_mask7] using h.symm, hC⟩
  | channelPressure ch m =>
    obtain ⟨-, -, -, -, -, hD, -⟩ := hsum ch m m
    exact ⟨_, [mask7 m], by simpa [encodeEvent, dataByte_mask7] using h.symm, hD⟩
  | pitchBend ch v =>
    refine ⟨statusSum 0xE0 ch, [low7 (biased14 v), high7 (biased14 v)], ?_, ?_⟩
    · simpa [encodeEvent, dataByte_low7, dataByte_high7] using h.symm
    · rw [assemble_pitchBend, bendValue_biased14]
      rfl
  | systemRealtime k => cases h
  | other => cases h

/-- R163 (b): in the ranges of R13 nothing is reduced. -/
theorem reduced_of_inRange {e : MidiEvent} (h : e.InRange) : e.reduced = e := by
  cases e with
  | noteOff | noteOn | polyPressure | controlChange =>
    obtain ⟨ha, hb⟩ := h
    simp [MidiEvent.reduced, Nat.mod_eq_of_lt, ha, hb]
  | programChange | channelPressure => simp [MidiEvent.reduced, Nat.mod_eq_of_lt (show _ < 128 from h)]
  | pitchBend ch v =>
    obtain ⟨hlo, hhi⟩ := h
    simp only [MidiEvent.reduced, MidiEvent.pitchBend.injEq, true_and]
    omega
  | systemRealtime | other => rfl

/-- Settles O49: the bytes of an event are a message in full form, which emits what it assembles to. -/
theorem eventToWireToEvent : Obligations.EventToWireToEvent := by
  intro p S e g h
  refine ⟨?_, reduced_of_inRange⟩
  obtain ⟨st, c, rfl, hc⟩ := exists_message_of_encodeEvent h
  exact ⟨S.cache st, by simpa using feedTrace_message p hc⟩

end Sys2Proof.Machine
end

section
/-! PROOF. The table read both ways (R66), the event on the port (R72, R73), and with them the round trip from wire
to event to wire. -/

namespace Sys2Proof.Machine

/-! ### A legal table -/

/-- R66: a byte of a kind is a system status byte whose entry is that kind. -/
theorem rt_eq_some_iff (p : Params) (b : Byte) (k : RtKind) :
    rt p b = some k ↔ ∃ i, systemByte i = b ∧ p.rtTable[i] = some k := by
  constructor
  · intro h
    have hi := systemByte_of_opc (opc_of_rt h)
    rw [← hi, rt_systemByte] at h
    exact ⟨_, hi, h⟩
  · rintro ⟨i, rfl, hi⟩
    rw [rt_systemByte, hi]

/-- R8: no kind is at two bytes. -/
theorem rt_injective {p : Params} (hp : p.Legal) {b b' : Byte} {k : RtKind} (h : rt p b = some k)
    (h' : rt p b' = some k) : b = b' := by
  obtain ⟨-, -, -, -, hinj, -⟩ := hp
  obtain ⟨i, rfl, hi⟩ := (rt_eq_some_iff p b k).1 h
  obtain ⟨j, rfl, hj⟩ := (rt_eq_some_iff p b' k).1 h'
  rw [hinj i j (hi.trans hj.symm) (by simp [hi])]

theorem rtKind_mem_all (k : RtKind) : k ∈ RtKind.all := by
  cases k <;> decide

theorem statusByte_system (i : Fin 16) : statusByte 0xF#4 (BitVec.ofNat 4 i.val) = systemByte i := by
  revert i; decide

/-- R66, R73: the sub-code of a kind is that of its byte. -/
theorem rt_statusByte_rtCode {p : Params} (hp : p.Legal) (k : RtKind) :
    rt p (statusByte 0xF#4 (rtCode p k)) = some k := by
  obtain ⟨-, -, -, -, -, hall⟩ := hp
  unfold rtCode
  split
  · next i hi =>
    rw [statusByte_system, rt_systemByte]
    simpa using List.find?_some hi
  · next hnone =>
    obtain ⟨i, hi⟩ := hall k (rtKind_mem_all k)
    exact absurd hi (by simpa using List.find?_eq_none.1 hnone i (List.mem_finRange i))

/-! ### What a byte emits of the table -/

/-- R120: a byte emits a system real-time event exactly where the table has its kind. -/
theorem feed_out_eq_systemRealtime_iff (p : Params) (S : DecoderState) (b : Byte) (k : RtKind) :
    (feed p S b).2 = some (.systemRealtime k) ↔ rt p b = some k := by
  rw [feed_eq_byteStep]
  constructor
  · intro h
    obtain ⟨-, k', hk, he⟩ | ⟨-, st, -, -, -, ha⟩ := byteStep_out_cases h
    · rw [hk, MidiEvent.systemRealtime.inj he]
    · simpa [encodeEvent] using encodeEvent_of_assemble ha
  · intro h
    rw [byteStep_out_of_system (opc_of_rt h), h]
    rfl

theorem feed_systemByte_out (p : Params) (S : DecoderState) (i : Fin 16) :
    (feed p S (systemByte i)).2 = p.rtTable[i].map .systemRealtime := by
  rw [feed_eq_byteStep, byteStep_out_of_system (opc_systemByte i), rt_systemByte]

/-- R66: the bytes 0xF1..0xF6 are those of the entries 1 to 6. -/
theorem exists_systemByte_of_range {b : Byte} (hlo : 0xF1 ≤ b.toNat) (hhi : b.toNat ≤ 0xF6) :
    ∃ i : Fin 16, systemByte i = b ∧ 1 ≤ i.val ∧ i.val ≤ 6 := by
  revert b; decide

theorem systemByte_range {i : Fin 16} (hlo : 1 ≤ i.val) (hhi : i.val ≤ 6) :
    0xF1 ≤ (systemByte i).toNat ∧ (systemByte i).toNat ≤ 0xF6 := by
  revert i; decide

/-- Settles O17: what a system byte emits is its entry, and the entries are those of a legal table. -/
theorem everyLegalTableSupportsSevenBytes : Obligations.EveryLegalTableSupportsSevenBytes := by
  intro p S hp
  have hlegal := hp
  obtain ⟨-, -, ⟨h0, h4, h7⟩, ⟨i, ⟨hlo, hhi⟩, hi, hother⟩, -, hall⟩ := hlegal
  have hnone (j : Fin 16) (h : p.rtTable[j] = none) : (feed p S (systemByte j)).2 = none := by
    rw [feed_systemByte_out, h]
    rfl
  have honly (b : Byte) (hb : 0xF1 ≤ b.toNat) (hb' : b.toNat ≤ 0xF6) (hout : (feed p S b).2 ≠ none) :
      b = systemByte i := by
    obtain ⟨j, rfl, hj, hj'⟩ := exists_systemByte_of_range hb hb'
    by_contra hne
    exact hout (hnone j (hother j ⟨hj, hj'⟩ fun h => hne (h ▸ rfl)))
  have hout : (feed p S (systemByte i)).2 = some (.systemRealtime .tuneRequest) := by
    rw [feed_systemByte_out, hi]
    rfl
  refine ⟨hnone 0 h0, hnone 4 h4, hnone 7 h7, ⟨systemByte i, ⟨systemByte_range hlo hhi, ?_⟩, ?_⟩, ?_, ?_⟩
  · rw [hout]
    exact Option.some_ne_none _
  · rintro b ⟨⟨hb, hb'⟩, hne⟩
    exact honly b hb hb' hne
  · intro b hb hb' hne
    rw [honly b hb hb' hne, hout]
  · intro k
    obtain ⟨j, hj⟩ := hall k (rtKind_mem_all k)
    have hk := (rt_eq_some_iff p _ k).2 ⟨j, rfl, hj⟩
    simp only [feed_out_eq_systemRealtime_iff]
    exact ⟨systemByte j, hk, fun b hb => rt_injective hp hb hk⟩

/-! ### An event on the port -/

/-- R73: the port fields stand for the event they were made of. -/
theorem portToEvent_eventToPort {p : Params} (hp : p.Legal) (e : MidiEvent) :
    portToEvent p (eventToPort p e) = e := by
  cases e with
  | systemRealtime k => simp [eventToPort, portToEvent, rt_statusByte_rtCode hp k]
  | noteOff | noteOn | polyPressure | controlChange | programChange | channelPressure | pitchBend
  | other => rfl

theorem fitsData_of_lt {p : Params} (hp : p.Legal) {n : Nat} (h : n < 128) : p.fitsData n = true := by
  obtain ⟨hw, -⟩ := hp
  have hpow : 2 ^ 7 ≤ 2 ^ p.dataW := Nat.pow_le_pow_right (by decide) hw
  simp only [Params.fitsData, decide_eq_true_eq]
  omega

theorem fitsBend_of_range {p : Params} (hp : p.Legal) {v : Int} (hlo : -8192 ≤ v) (hhi : v ≤ 8191) :
    p.fitsBend v = true := by
  obtain ⟨-, hw, -⟩ := hp
  have hpow : (2 : Int) ^ 13 ≤ 2 ^ (p.bendW - 1) := pow_le_pow_right₀ (by decide) (by omega)
  simp only [Params.fitsBend, Bool.and_eq_true, decide_eq_true_eq]
  omega

/-- R8, R13: an event in range fits the port of every legal build. -/
theorem misfit_of_inRange {p : Params} (hp : p.Legal) {e : MidiEvent} (h : e.InRange) :
    (eventToPort p e).misfit p = none := by
  have h0 := Laws.Presentable.fitsData_zero p
  have hv0 := Laws.Presentable.fitsBend_zero p
  rw [misfit_eq_none_iff]
  cases e with
  | noteOff | noteOn | polyPressure | controlChange =>
    obtain ⟨ha, hb⟩ := h
    exact ⟨fitsData_of_lt hp ha, fitsData_of_lt hp hb, hv0⟩
  | programChange | channelPressure => exact ⟨fitsData_of_lt hp h, h0, hv0⟩
  | pitchBend =>
    obtain ⟨hlo, hhi⟩ := h
    exact ⟨h0, h0, fitsBend_of_range hp hlo hhi⟩
  | systemRealtime => exact ⟨h0, h0, hv0⟩
  | other => cases h

/-- Settles O48: the message emits its event at the last byte, the event fits the port and stands for itself there,
and it encodes to the bytes of the message. -/
theorem wireToEventToWire : Obligations.WireToEventToWire := by
  intro s b ds hp hb hb' hlen
  have hst := (isStatus_iff b).2 hb
  have hf := (opc_ne_system_iff b).2 hb'
  obtain ⟨e, he⟩ := exists_assemble hst hf hlen
  have hrun (c : List Data7) : execAll (decodeByte b :: c.map Instr.data) s =
      .next (s.feedBytes (b :: c.map dataByte)) := by
    rw [← execAll_decodeBytes, List.map_cons, map_data_eq]
  obtain ⟨-, -, -, hev, -⟩ := s.feedBytes_fields (b :: ds.dropLast.map dataByte)
  obtain ⟨hp', -, -, hev', hwire⟩ := s.feedBytes_fields (b :: ds.map dataByte)
  have hport := decode_event_of_fits (misfit_of_inRange hp (inRange_of_assemble he)) rfl
  refine ⟨e, _, _, _, _, hrun ds.dropLast, ?_, hrun ds, ?_, hport, exec_decodeEvent _ _, ?_⟩
  · have hpos : ds.length ≠ 0 := fun h => dlen_ne_zero hst hf (Fin.ext (hlen.symm.trans h))
    rw [hev, feedEvents, feedTrace_incomplete _ hst hf _ (by rw [List.length_dropLast]; omega),
      List.reduceOption_replicate_none, List.append_nil]
  · rw [hev', feedEvents, feedTrace_message _ he]
    simp [List.reduceOption_append]
  · rw [State.sendEvent_wireOut, hwire, hp', portToEvent_eventToPort hp, encodeEvent_of_assemble he]
    rfl

/-! ### The bits of the port -/

/-- R72: the bits of an event that fits the port stand for its numbers. -/
theorem toPort_ofPort {p : Params} (hp : p.Legal) {e : PortEvent} (h : e.misfit p = none) :
    (EventPins.ofPort p.dataW p.bendW e).toPort = e := by
  obtain ⟨-, hw, -⟩ := hp
  obtain ⟨ha, hb, hv⟩ := (misfit_eq_none_iff p e).1 h
  simp only [Params.fitsData, Params.fitsBend, Bool.and_eq_true, decide_eq_true_eq] at ha hb hv
  obtain ⟨hlo, hhi⟩ := hv
  simp [EventPins.ofPort, EventPins.toPort, Nat.mod_eq_of_lt ha, Nat.mod_eq_of_lt hb,
    BitVec.toInt_ofInt_eq_self (by omega) hlo hhi]

/-- R73: `{kind, chan}` of an assembled event is its status byte. -/
theorem statusByte_of_assemble (p : Params) {st : Byte} {c : List Data7} {e : MidiEvent}
    (h : assemble st c = some e) : statusByte (eventToPort p e).kind (eventToPort p e).chan = st := by
  have hst {nib : Nibble} (ho : opc st = nib) : statusByte nib (chan st) = st := by
    rw [← ho, statusByte_opc_chan]
  obtain ⟨a, b, -, ⟨ho, rfl⟩ | ⟨ho, rfl⟩ | ⟨ho, rfl⟩ | ⟨ho, rfl⟩ | ⟨ho, rfl⟩⟩ |
    ⟨a, -, ⟨ho, rfl⟩ | ⟨ho, rfl⟩⟩ := assemble_cases h <;> exact hst ho

/-- R73: `{kind, chan}` of an emitted event is the status byte that selected it. -/
theorem statusByte_of_byteStep {p : Params} (hp : p.Legal) {S : DecoderState} {b : Byte}
    {e : MidiEvent} (h : (byteStep p b S).out = some e) :
    some (statusByte (eventToPort p e).kind (eventToPort p e).chan) =
      if 0x80 ≤ b.toNat then some b else S.runningStatus := by
  obtain ⟨hb, k, hk, rfl⟩ | ⟨hb, st, hrs, -, -, ha⟩ := byteStep_out_cases h
  · rw [if_pos ((isStatus_iff b).1 hb)]
    exact congrArg some (rt_injective hp (rt_statusByte_rtCode hp k) hk)
  · rw [if_neg (Nat.not_le.2 ((not_isStatus_iff b).1 hb)), hrs, statusByte_of_assemble p ha]

/-- Settles O53: an emitted event is in range, so it fits, and its status byte selected it. -/
theorem emittedEventOnThePort : Obligations.EmittedEventOnThePort := by
  intro p S b e hp _ h
  rw [feed_eq_byteStep] at h
  have hfit := misfit_of_inRange hp (inRange_of_byteStep h)
  exact ⟨hfit, statusByte_of_byteStep hp h, toPort_ofPort hp hfit, portToEvent_eventToPort hp e⟩

end Sys2Proof.Machine
end

section
/-! PROOF. The port level (R55, R56, R75, R165), the storage layout (R34), and the encoder's results that are no
masked parameters: the biased pitch bend (R159) and nothing (R160, R161). -/

namespace Sys2Proof.Machine

/-! ### One clock cycle of the decoder -/

/-- Settles O51: the three branches of a cycle. -/
theorem resetCycleWinsAndIdleCycleKeeps : Obligations.ResetCycleWinsAndIdleCycleKeeps :=
  fun _ _ _ _ => ⟨rfl, rfl, rfl, rfl⟩

theorem runSteps_add {n m : Nat} {s t : State} (h : runSteps n s = .next t) :
    runSteps (n + m) s = runSteps m t := by
  induction n generalizing s with
  | zero =>
    obtain rfl := Host.Outcome.next.inj h
    rw [Nat.zero_add]
  | succ n ih =>
    rw [Nat.succ_add, runSteps]
    rw [runSteps] at h
    cases hs : step s with
    | next u =>
      rw [hs] at h
      exact ih h
    | fault r => simp [hs] at h
    | refused r => simp [hs] at h

/-- R55, R56: the items of a cycle, run by the machine, give the cycle's state and the event it shows, if any. -/
theorem runSteps_cycle (i : DecIn) {s : State} {rest : List InItem} (hin : s.input = i.items ++ rest) :
    ∃ t out, runSteps i.items.length s = .next t ∧ t.input = rest ∧ t.params = s.params ∧
      t.evOut = s.evOut ++ out.toList ∧
      decCycle s.params i s.dec = (t.dec, DecOut.show_ s.params out) := by
  obtain ⟨rst, valid, b⟩ := i
  cases rst with
  | true =>
    exact ⟨_, none, runSteps_succ_next (step_of_rst hin), rfl, rfl, (List.append_nil _).symm, rfl⟩
  | false =>
    cases valid with
    | true =>
      refine ⟨_, (feed s.params s.dec b).2, runSteps_succ_next (step_of_wire hin), rfl, rfl, ?_, ?_⟩
      · rw [State.feedByte_evOut]
      · rw [State.feedByte_dec]
        rfl
    | false => exact ⟨s, none, rfl, hin, rfl, (List.append_nil _).symm, rfl⟩

theorem filter_valid_show (p : Params) (out : Option MidiEvent) (os : List (DecOut p.dataW p.bendW)) :
    (DecOut.show_ p out :: os).filter (fun o => o.valid) =
      out.toList.map (fun e => DecOut.show_ p (some e)) ++ os.filter (fun o => o.valid) := by
  cases out <;> rfl

/-- Settles O50, by induction over the cycles. -/
theorem decoderPortsShowTheEvents : Obligations.DecoderPortsShowTheEvents := by
  intro s is
  induction is generalizing s with
  | nil =>
    intro hin
    rw [hin]
    exact ⟨s, [], rfl, (List.append_nil _).symm, rfl, rfl⟩
  | cons i is ih =>
    intro hin
    rw [List.flatMap_cons] at hin
    obtain ⟨u, out, hrun, huin, hup, huev, hcycle⟩ := runSteps_cycle i hin
    obtain ⟨t, evs, hrest, htev, htdec, hshow⟩ := ih u huin
    rw [hup] at htdec hshow
    refine ⟨t, out.toList ++ evs, ?_, ?_, ?_, ?_⟩
    · rw [hin, List.length_append, runSteps_add hrun, ← huin, hrest]
    · rw [htev, huev, List.append_assoc]
    · rw [htdec, decCycles, hcycle]
    · rw [decCycles, hcycle, filter_valid_show, hshow, List.map_append]

/-! ### The encoder as bits -/

/-- R75: the low seven bits of a pin field are the masked parameter. -/
theorem data_bits_eq_maskedByte {w : Nat} (a : BitVec w) :
    0#1 ++ a.extractLsb' 0 7 = maskedByte a.toNat := by
  have hbits : a.extractLsb' 0 7 = mask7 a.toNat := by
    apply BitVec.eq_of_toNat_eq
    simp [mask7, BitVec.extractLsb'_toNat]
  rw [hbits]
  exact dataByte_mask7 a.toNat

/-- Inverting the top bit of 14 adds half the range. -/
theorem xor_top_bit (x : BitVec 14) : x ^^^ 0x2000#14 = x + 0x2000#14 := by
  have hx : x.toNat < 2 ^ 14 := x.isLt
  have hlow : (x.toNat ^^^ 8192) % 2 ^ 13 = x.toNat % 2 ^ 13 := by
    rw [Nat.xor_mod_two_pow]
    exact Nat.xor_zero _
  have hhigh : (x.toNat ^^^ 8192) / 2 ^ 13 = 1 - x.toNat / 2 ^ 13 := by
    rw [Nat.xor_div_two_pow]
    obtain h | h : x.toNat / 2 ^ 13 = 0 ∨ x.toNat / 2 ^ 13 = 1 := by omega
    · rw [h]
      rfl
    · rw [h]
      rfl
  apply BitVec.eq_of_toNat_eq
  rw [BitVec.toNat_xor, BitVec.toNat_add, BitVec.toNat_ofNat]
  norm_num at hlow hhigh hx ⊢
  omega

/-- R159, R165: `bend[13:0]` with bit 13 inverted is the biased value. -/
theorem biased_bits_eq_biased14 {w : Nat} (hw : 14 ≤ w) (v : BitVec w) :
    v.extractLsb' 0 14 ^^^ 0x2000#14 = biased14 v.toInt := by
  rw [xor_top_bit, biased14, BitVec.ofInt_add, ← BitVec.setWidth_eq_extractLsb' hw,
    ← BitVec.signExtend_eq_setWidth_of_le v hw]
  rfl

/-! The outputs of the three forms of results, in the bytes of the table of R77. -/

section
variable {dw bw : Nat} {nib : Nibble} {ch : Chan} {st : Byte}

theorem pins_three (h : statusByte nib ch = st) (a b : BitVec dw) :
    (⟨3, nib ++ ch, 0#1 ++ a.extractLsb' 0 7, 0#1 ++ b.extractLsb' 0 7⟩ : EncOut) =
      EncOut.ofResult (some [st, maskedByte a.toNat, maskedByte b.toNat]) := by
  rw [← h, data_bits_eq_maskedByte, data_bits_eq_maskedByte]
  rfl

theorem pins_two (h : statusByte nib ch = st) (a : BitVec dw) :
    (⟨2, nib ++ ch, 0#1 ++ a.extractLsb' 0 7, 0⟩ : EncOut) =
      EncOut.ofResult (some [st, maskedByte a.toNat]) := by
  rw [← h, data_bits_eq_maskedByte]
  rfl

theorem pins_biased (h : statusByte nib ch = st) (hw : 14 ≤ bw) (v : BitVec bw) :
    (⟨3, nib ++ ch, 0#1 ++ (v.extractLsb' 0 14 ^^^ 0x2000#14).extractLsb' 0 7,
        0#1 ++ (v.extractLsb' 0 14 ^^^ 0x2000#14).extractLsb' 7 7⟩ : EncOut) =
      EncOut.ofResult (some [st, bendByte1 v.toInt, bendByte2 v.toInt]) := by
  rw [← h, biased_bits_eq_biased14 hw, ← dataByte_low7, ← dataByte_high7]
  rfl

end

/-- Settles O52, by the event kind. -/
theorem encoderPinsAreEncode : Obligations.EncoderPinsAreEncode := by
  rintro p ⟨valid, k, ch, a, b, v⟩ ⟨-, hw, -⟩
  cases valid with
  | false => rfl
  | true =>
    obtain ⟨h8, h9, hA, hB, hC, hD, hE⟩ := statusByte_eq_sum ch
    obtain (rfl | rfl | rfl | rfl | rfl | rfl | rfl | rfl) | hk := kind_cases k
    · exact pins_three h8 a b
    · exact pins_three h9 a b
    · exact pins_three hA a b
    · exact pins_three hB a b
    · exact pins_two hC a
    · exact pins_two hD a
    · exact pins_biased hE hw v
    · exact (congrArg EncOut.ofResult
        (encodeEvent_of_system_kind p ch a.toNat b.toNat v.toInt)).symm
    · rcases hk with rfl | rfl | rfl | rfl | rfl | rfl | rfl | rfl <;> rfl

/-! ### The storage layout -/

/-- R25: at most one data byte is collected between steps. -/
theorem collected_cases {S : DecoderState} (hS : S.Inv) : S.collected = [] ∨ ∃ d, S.collected = [d] := by
  have hcount := S.expectedCount.isLt
  by_cases hzero : S.expectedCount = 0
  · exact .inl (hS.empty hzero)
  · have hlt := hS.notFull (Nat.pos_of_ne_zero fun h => hzero (Fin.ext h))
    obtain h | h : S.collected.length = 0 ∨ S.collected.length = 1 := by omega
    · exact .inl (List.length_eq_zero_iff.1 h)
    · exact .inr (List.length_eq_one_iff.1 h)

/-- R34: a presence bit and a value hold an optional register. -/
@[simp] theorem loadedByte_storedByte (r : Option Byte) : loadedByte (validBit r) (storedByte r) = r := by
  cases r <;> rfl

/-- R34: two bits hold the count. -/
theorem unpacked_count (n : Fin 3) :
    (if BitVec.ofNat 2 n.val = 0#2 then 0 else if BitVec.ofNat 2 n.val = 1#2 then 1 else 2) = n := by
  revert n; decide

/-- Settles O54: each register is held, `collected` because it has at most one byte. -/
theorem storageLayoutHoldsTheState : Obligations.StorageLayoutHoldsTheState := by
  refine ⟨by decide, fun S hS => ?_⟩
  have hp := hS.pending
  have hc := collected_cases hS
  obtain ⟨rs, ps, c, n⟩ := S
  obtain rfl : ps = none := hp
  refine ⟨?_, rfl, rfl, ?_, ?_⟩
  · obtain rfl | ⟨d, rfl⟩ := hc <;>
      simp [Layout.pack, Layout.unpack, unpacked_count]
  · cases rs <;> simp [Layout.pack, validBit, storedByte]
  · obtain rfl | ⟨d, rfl⟩ := hc <;> simp [Layout.pack]

/-! ### The biased pitch bend, and nothing -/

/-- Settles O40: the two data bytes are the halves of the biased value. -/
theorem encodesPitchBendBiased : Obligations.EncodesPitchBendBiased := by
  intro ch v s
  refine ⟨(biased14 v).toNat, biased14_toNat v, biased14_toNat_of_range, ?_⟩
  rw [exec_encPitchBend, ← low7_toNat, ← high7_toNat, ofNat_toNat_eq_dataByte, ofNat_toNat_eq_dataByte]
  rfl

/-- R160, R161: an event without bytes leaves its name and nothing else. -/
theorem State.putEncode_nothing (s : State) :
    s.putEncode encodeNothing = { s with encAnomalies := s.encAnomalies ++ [.unsupportedEvent] } := by
  simp [State.putEncode, encodeNothing]

/-- R75: the pins show no bytes for the kinds 0xF and 0x0..0x7. -/
theorem encPins_len_of_unsupported {dw bw : Nat} (i : EncIn dw bw)
    (hk : i.ev.kind = 0xF ∨ i.ev.kind.toNat < 8) : (encPins i).len = 0 := by
  obtain ⟨valid, k, ch, a, b, v⟩ := i
  have hkinds : ∀ k : Nibble, k = 0xF#4 ∨ k.toNat < 8 →
      k = 0xF#4 ∨ k = 0x0#4 ∨ k = 0x1#4 ∨ k = 0x2#4 ∨ k = 0x3#4 ∨ k = 0x4#4 ∨ k = 0x5#4 ∨ k = 0x6#4 ∨
        k = 0x7#4 := by decide
  cases valid with
  | false => rfl
  | true => rcases hkinds k hk with rfl | rfl | rfl | rfl | rfl | rfl | rfl | rfl | rfl <;> rfl

/-- Settles O42, for the machine, for `encode` and for the pins. -/
theorem unsupportedEventsGiveNoBytes : Obligations.UnsupportedEventsGiveNoBytes :=
  ⟨fun _ s => congrArg _ s.putEncode_nothing, fun _ s => congrArg _ s.putEncode_nothing, fun _ => rfl,
    rfl, fun _ _ => encPins_len_of_unsupported⟩

end Sys2Proof.Machine
end
